-- ==== Sys2Proof/Word.lean ====
section
/-! DEFINITION. The word types of the block: an 8-bit byte of the PS/2 wire (spec/00_scope.md R8) and the
32-bit operation word in which a host operation or an event is presented (spec/30_encoding.md R100). -/

namespace Sys2Proof

/-- A PS/2 data byte (R8: "a PS/2 data byte is 8 bits"). -/
abbrev Byte := BitVec 8

/-- An operation word (R100: "Each host operation and each event has a 32-bit operation word w"). -/
abbrev OpWord := BitVec 32

end Sys2Proof
end

