-- ==== Sys2Proof/Config.lean ====
section
/-! DEFINITION. The implementation parameters of spec/00_scope.md R7, with the PS/2 byte values of
spec/30_encoding.md R90 and the startup table CONFIG of spec/70_reset_and_hazards.md R281. They are an ARGUMENT of
the model: a machine state carries one `Config` in its field `cfg`, no step writes it, and a statement about every
state is a statement about every configuration (log 1). `Config.default` is only what `State.reset` starts from. -/

namespace Sys2Proof

/-- The emulation mode (R40): `Analog` (0) or `Joystick` (1). -/
inductive Mode where
  | analog
  | joystick
deriving DecidableEq, Repr

/-- The frame resynchronisation policy `RESYNC` (R7, R182). -/
inductive Resync where
  /-- `NONE`: frames are delimited by count alone (the default). -/
  | none
  /-- `BIT3`: a byte with bit 3 clear is not taken as the first byte of a frame. -/
  | bit3
deriving DecidableEq, Repr

/-- The sign `Y_SIGN` (R7). -/
inductive YSign where
  | plus
  | minus
deriving DecidableEq, Repr

/-- What the startup collaborator answers for one boot mask (R281): a mode, optionally a resolution code and
optionally a zero point. The code is a byte because the collaborator calls `S.SETRES` as a procedure (R252). -/
structure StartChoice where
  mode : Mode
  res  : Option Byte
  zero : Option Nat
deriving DecidableEq, Repr

/-- Every parameter of R7, R90 and R281, under the spec's own names. -/
structure Config where
  /-- `RQ_CAP`, the receive queue's capacity in bytes. -/
  rqCap : Nat
  /-- `CNT_MOD`, the modulus of each position counter. -/
  cntMod : Nat
  /-- `ZERO_DEFAULT`, the zero point at power-on, in time units. -/
  zeroDefault : Nat
  /-- `SCALE_NUM`, the numerator of the scale factor. -/
  scaleNum : Nat
  /-- `SCALE_DEN`, the denominator of the scale factor. -/
  scaleDen : Nat
  /-- `TCNT_BITS`, the width of the counter, the compare registers, the targets and the zero point. -/
  tcntBits : Nat
  /-- `BARK_LIMIT`, the watchdog ticks allowed after a request-to-send (OPEN). -/
  barkLimit : Nat
  /-- `BOOT_POLLS`, the number of short waits per reset attempt (OPEN). -/
  bootPolls : Nat
  /-- `DEFAULT_RES`, the resolution code `S.BOOT` sets, in 0..3 (OPEN). -/
  defaultRes : BitVec 2
  /-- `SYNC_PERIOD`, the host's measurement period, in time units (OPEN). -/
  syncPeriod : Nat
  /-- `RECOVERY_DELAY`, in milliseconds; the model has no time and no rule reads it (R162, log 18). -/
  recoveryDelay : Nat
  /-- `WDT_PERIOD` (OPEN); no rule reads it (log 18). -/
  wdtPeriod : Nat
  /-- `T_INHIBIT` (OPEN); no rule reads it (log 18). -/
  tInhibit : Nat
  /-- `T_RESP` (OPEN); no rule reads it (log 18). -/
  tResp : Nat
  /-- `BOOT_POLL_INTERVAL` (OPEN); no rule reads it (log 18). -/
  bootPollInterval : Nat
  /-- `JOY_PULSE` (OPEN); no rule reads it (log 18). -/
  joyPulse : Nat
  /-- `Y_SIGN`, applied to dy before it is added to the Y counter. -/
  ySign : YSign
  /-- `FIRE_BIT`, the button-mask bit that drives JOY_FIRE. -/
  fireBit : Fin 3
  /-- `AUX_BIT`, the button-mask bit that drives the auxiliary switch. -/
  auxBit : Fin 3
  /-- `RESYNC`. -/
  resync : Resync
  cmdReset : Byte
  cmdDisable : Byte
  cmdEnable : Byte
  cmdScale21 : Byte
  cmdSetres : Byte
  cmdStatus : Byte
  rspBatOk : Byte
  rspAck : Byte
  rspId : Byte
  /-- `CONFIG : mask → (m, r?, z?)` (R281) as a table of the eight masks, so that it is plain data (OPEN). -/
  startup : Vector StartChoice 8
deriving DecidableEq, Repr

/-- The configuration `State.reset` carries: the defaults of R7 and R90 where the spec gives one; where R7 says OPEN,
a value that is a DESIGN CHOICE of the model (log 1: `BARK_LIMIT` 3, `BOOT_POLLS` 2, `DEFAULT_RES` 2, `SYNC_PERIOD`
70000, `CONFIG` constantly Analog with nothing else, the uninterpreted times 1). -/
def Config.default : Config where
  rqCap := 16
  cntMod := 64
  zeroDefault := 320
  scaleNum := 200
  scaleDen := 96
  tcntBits := 16
  barkLimit := 3
  bootPolls := 2
  defaultRes := 2
  syncPeriod := 70000
  recoveryDelay := 1
  wdtPeriod := 1
  tInhibit := 1
  tResp := 1
  bootPollInterval := 1
  joyPulse := 1
  ySign := .plus
  fireBit := 0
  auxBit := 1
  resync := .none
  cmdReset := 0xFF
  cmdDisable := 0xF5
  cmdEnable := 0xF4
  cmdScale21 := 0xE7
  cmdSetres := 0xE8
  cmdStatus := 0xE9
  rspBatOk := 0xAA
  rspAck := 0xFA
  rspId := 0x00
  startup := Vector.replicate 8 ⟨.analog, none, none⟩

end Sys2Proof
end

