-- ==== Sys2Proof/Syntax.lean ====
section
/-! DEFINITION. The instructions of the block: one constructor per row of spec/opcode_table.json, that is the 20 host
operations and events of spec/30_encoding.md R101 and the 9 PS/2 bytes of R90; and the two shapes in which the outside
presents one, a 32-bit operation word or an 8-bit PS/2 byte. -/

namespace Sys2Proof

/-- One row of the opcode table each. Operands are already decoded (R102); a one-bit operand is a `Bool`. -/
inductive Instr where
  /-- `T.INIT` (R120). -/
  | tInit
  /-- `T.ENRX e` (R121). -/
  | tEnrx (e : Bool)
  /-- `T.AVAIL` (R122). -/
  | tAvail
  /-- `T.GET` (R123). -/
  | tGet
  /-- `T.SEND b` (R124). -/
  | tSend (b : Byte)
  /-- `T.BUSY` (R125). -/
  | tBusy
  /-- `EV.FALL d` (R126). -/
  | evFall (d : Bool)
  /-- `EV.TTMR` (R141, R160, R161). -/
  | evTtmr
  /-- `EV.BIDLE` (R157). -/
  | evBidle
  /-- `S.BOOT` (R175). -/
  | sBoot
  /-- `S.CMD code, expect` (R177). -/
  | sCmd (code : Byte) (expect : Bool)
  /-- `S.SETRES r` (R178); a word carries only 0..3, a procedure call any byte (R252). -/
  | sSetres (r : Byte)
  /-- `S.DECODE f0, f1, f2` (R185). -/
  | sDecode (f0 f1 f2 : Byte)
  /-- `S.POLL` (R181). -/
  | sPoll
  /-- `E.INIT m` (R210). -/
  | eInit (m : Mode)
  /-- `E.ZERO z` (R211). -/
  | eZero (z : BitVec 16)
  /-- `E.MOVE dx, dy, btn` (R220); dx and dy are 9-bit two's complement. -/
  | eMove (dx dy : BitVec 9) (btn : BitVec 3)
  /-- `EV.SYNC` (R230). -/
  | evSync
  /-- `EV.TCK` (R231). -/
  | evTck
  /-- `EV.PULSE` (R232). -/
  | evPulse
  /-- The PS/2 byte `CMD_RESET` (R90). -/
  | cmdReset
  /-- The PS/2 byte `CMD_DISABLE` (R90). -/
  | cmdDisable
  /-- The PS/2 byte `CMD_ENABLE` (R90). -/
  | cmdEnable
  /-- The PS/2 byte `CMD_SCALE21` (R90). -/
  | cmdScale21
  /-- The PS/2 byte `CMD_SETRES` (R90). -/
  | cmdSetres
  /-- The PS/2 byte `CMD_STATUS` (R90). -/
  | cmdStatus
  /-- The PS/2 byte `RSP_BAT_OK` (R90). -/
  | rspBatOk
  /-- The PS/2 byte `RSP_ACK` (R90). -/
  | rspAck
  /-- The PS/2 byte `RSP_ID` (R90). -/
  | rspId
deriving DecidableEq, Repr

/-- An encoded instruction: an operation word (R100) or a PS/2 byte (R90; the table's format PS2BYTE). -/
inductive Code where
  | word (w : OpWord)
  | byte (b : Byte)
deriving DecidableEq, Repr

end Sys2Proof
end

