-- ==== Sys2Proof/WellFormed.lean ====
section
/-! DEFINITION. The operand ranges of spec/30_encoding.md R101 that the types of `Instr` do not already carry: the
resolution code of `S.SETRES` and the zero point of `E.ZERO`; and the condition under which the nine PS/2 bytes of R90
can be told apart. -/

namespace Sys2Proof

/-- R101: `S.SETRES` takes `imm8` in 0..3, `E.ZERO` takes `imm16 < 2^TCNT_BITS`; every other operand's range is its
type's. -/
def Instr.wellFormed (cfg : Config) : Instr → Bool
  | .sSetres r => decide (r.toNat ≤ 3)
  | .eZero z => decide (z.toNat < 2 ^ cfg.tcntBits)
  | _ => true

/-- The nine PS/2 byte values of R90, in the table's order. -/
def Config.wireBytes (cfg : Config) : List Byte :=
  [cfg.cmdReset, cfg.cmdDisable, cfg.cmdEnable, cfg.cmdScale21, cfg.cmdSetres, cfg.cmdStatus,
    cfg.rspBatOk, cfg.rspAck, cfg.rspId]

/-- No two of the nine PS/2 bytes have one value, so that a byte names at most one of them (log 11). -/
def Config.wireBytesDistinct (cfg : Config) : Bool := decide cfg.wireBytes.Nodup

end Sys2Proof
end

