-- ==== Sys2Proof/Decode.lean ====
section
/-! DEFINITION. The decoder of operation words (spec/30_encoding.md R100 to R103) and of PS/2 bytes (R90), total and
rejecting by name, and the encoder written from the same tables. `decodeTableWord` is the decoder as the host asks it. -/

namespace Sys2Proof

/-- Why a code is illegal (R103), and the one further case of a PS/2 byte that R90 does not name. -/
inductive DecodeError where
  /-- The opcode `w[7:0]` is not in R101. -/
  | unknownOpcode (op : BitVec 8)
  /-- A reserved bit of the format is 1 (R100). -/
  | reservedBits
  /-- An operand lies outside its range in R101. -/
  | operandRange
  /-- A PS/2 byte that is none of the nine of R90 (log 11). -/
  | unnamedByte (b : Byte)
deriving DecidableEq, Repr

/-- What decoding answers: an instruction, or "illegal" with the reason. -/
inductive Decoded where
  | ok (i : Instr)
  | illegal (e : DecodeError)
deriving DecidableEq, Repr

/-- The field of `n` bits from bit `lo` up (R9: `v[hi:lo]`). -/
def field (w : OpWord) (lo n : Nat) : BitVec n := w.extractLsb' lo n

/-- Format N: `w[31:8]` is reserved. -/
def formatN (w : OpWord) (i : Instr) : Decoded :=
  if field w 8 24 = 0 then .ok i else .illegal .reservedBits

/-- Format B: `imm8 = w[15:8]`, `w[31:16]` is reserved. -/
def formatB (w : OpWord) (k : Byte → Decoded) : Decoded :=
  if field w 16 16 = 0 then k (field w 8 8) else .illegal .reservedBits

/-- Format H: `imm16 = w[23:8]`, `w[31:24]` is reserved. -/
def formatH (w : OpWord) (k : BitVec 16 → Decoded) : Decoded :=
  if field w 24 8 = 0 then k (field w 8 16) else .illegal .reservedBits

/-- Format C: `code = w[15:8]`, `expect = w[16]`, `w[31:17]` is reserved. -/
def formatC (w : OpWord) (k : Byte → Bool → Decoded) : Decoded :=
  if field w 17 15 = 0 then k (field w 8 8) (field w 16 1 == 1) else .illegal .reservedBits

/-- Format F: `f0 = w[15:8]`, `f1 = w[23:16]`, `f2 = w[31:24]`. -/
def formatF (w : OpWord) (k : Byte → Byte → Byte → Decoded) : Decoded :=
  k (field w 8 8) (field w 16 8) (field w 24 8)

/-- Format M: `dx = w[16:8]`, `dy = w[25:17]`, `btn = w[28:26]`, `w[31:29]` is reserved. -/
def formatM (w : OpWord) (k : BitVec 9 → BitVec 9 → BitVec 3 → Decoded) : Decoded :=
  if field w 29 3 = 0 then k (field w 8 9) (field w 17 9) (field w 26 3) else .illegal .reservedBits

/-- An `imm8` in 0..1, read as a `Bool`. -/
def bitOperand (imm : Byte) (k : Bool → Instr) : Decoded :=
  if imm = 0 then .ok (k false) else if imm = 1 then .ok (k true) else .illegal .operandRange

/-- The mode operand of `E.INIT`: 0 = `Analog`, 1 = `Joystick`. -/
def modeOfBit (m : Bool) : Mode := if m then .joystick else .analog

/-- An instruction whose operand must lie in the range of R101. -/
def inRange (cfg : Config) (i : Instr) : Decoded :=
  if i.wellFormed cfg then .ok i else .illegal .operandRange

/-- R101: the opcode map. -/
def decodeWord (cfg : Config) (w : OpWord) : Decoded :=
  match (field w 0 8).toNat with
  | 0x01 => formatN w .tInit
  | 0x02 => formatB w fun imm => bitOperand imm .tEnrx
  | 0x03 => formatN w .tAvail
  | 0x04 => formatN w .tGet
  | 0x05 => formatB w fun imm => .ok (.tSend imm)
  | 0x06 => formatN w .tBusy
  | 0x10 => formatB w fun imm => bitOperand imm .evFall
  | 0x11 => formatN w .evTtmr
  | 0x12 => formatN w .evBidle
  | 0x20 => formatN w .sBoot
  | 0x21 => formatC w fun code expect => .ok (.sCmd code expect)
  | 0x22 => formatB w fun imm => inRange cfg (.sSetres imm)
  | 0x23 => formatF w fun f0 f1 f2 => .ok (.sDecode f0 f1 f2)
  | 0x24 => formatN w .sPoll
  | 0x30 => formatB w fun imm => bitOperand imm fun m => .eInit (modeOfBit m)
  | 0x31 => formatH w fun imm => inRange cfg (.eZero imm)
  | 0x32 => formatM w fun dx dy btn => .ok (.eMove dx dy btn)
  | 0x40 => formatN w .evSync
  | 0x41 => formatN w .evTck
  | 0x42 => formatN w .evPulse
  | _ => .illegal (.unknownOpcode (field w 0 8))

/-- R90: which of the nine PS/2 bytes a byte is, in the table's order (log 11). -/
def decodeByte (cfg : Config) (b : Byte) : Decoded :=
  if b = cfg.cmdReset then .ok .cmdReset
  else if b = cfg.cmdDisable then .ok .cmdDisable
  else if b = cfg.cmdEnable then .ok .cmdEnable
  else if b = cfg.cmdScale21 then .ok .cmdScale21
  else if b = cfg.cmdSetres then .ok .cmdSetres
  else if b = cfg.cmdStatus then .ok .cmdStatus
  else if b = cfg.rspBatOk then .ok .rspBatOk
  else if b = cfg.rspAck then .ok .rspAck
  else if b = cfg.rspId then .ok .rspId
  else .illegal (.unnamedByte b)

/-- The decoder (R103: "The decoder is total"). -/
def decode (cfg : Config) : Code → Decoded
  | .word w => decodeWord cfg w
  | .byte b => decodeByte cfg b

/-- A word of format N. -/
def encodeN (op : BitVec 8) : Code := .word (0#24 ++ op)

/-- A word of format B. -/
def encodeB (op : BitVec 8) (imm : Byte) : Code := .word (0#16 ++ imm ++ op)

/-- `imm8` of a one-bit operand. -/
def bitImm (b : Bool) : Byte := if b then 1 else 0

/-- `imm8` of a mode. -/
def modeImm : Mode → Byte
  | .analog => 0
  | .joystick => 1

/-- The encoder: the code of an instruction (R100 to R102, R90). -/
def encode (cfg : Config) : Instr → Code
  | .tInit => encodeN 0x01
  | .tEnrx e => encodeB 0x02 (bitImm e)
  | .tAvail => encodeN 0x03
  | .tGet => encodeN 0x04
  | .tSend b => encodeB 0x05 b
  | .tBusy => encodeN 0x06
  | .evFall d => encodeB 0x10 (bitImm d)
  | .evTtmr => encodeN 0x11
  | .evBidle => encodeN 0x12
  | .sBoot => encodeN 0x20
  | .sCmd code expect => .word (0#15 ++ BitVec.ofBool expect ++ code ++ (0x21 : BitVec 8))
  | .sSetres r => encodeB 0x22 r
  | .sDecode f0 f1 f2 => .word (f2 ++ f1 ++ f0 ++ (0x23 : BitVec 8))
  | .sPoll => encodeN 0x24
  | .eInit m => encodeB 0x30 (modeImm m)
  | .eZero z => .word (0#8 ++ z ++ (0x31 : BitVec 8))
  | .eMove dx dy btn => .word (0#3 ++ btn ++ dy ++ dx ++ (0x32 : BitVec 8))
  | .evSync => encodeN 0x40
  | .evTck => encodeN 0x41
  | .evPulse => encodeN 0x42
  | .cmdReset => .byte cfg.cmdReset
  | .cmdDisable => .byte cfg.cmdDisable
  | .cmdEnable => .byte cfg.cmdEnable
  | .cmdScale21 => .byte cfg.cmdScale21
  | .cmdSetres => .byte cfg.cmdSetres
  | .cmdStatus => .byte cfg.cmdStatus
  | .rspBatOk => .byte cfg.rspBatOk
  | .rspAck => .byte cfg.rspAck
  | .rspId => .byte cfg.rspId

/-- A table row's bits as a code: 8 bits are a PS/2 byte, anything wider an operation word with zeros above. -/
def codeOfTable (nbits w : Nat) : Code :=
  if nbits ≤ 8 then .byte (BitVec.ofNat 8 w) else .word (BitVec.ofNat 32 w)

/-- What the decoder reads from a row's bits, under the default configuration. -/
def decodeTableWord (nbits w : Nat) : Option Instr :=
  match decode Config.default (codeOfTable nbits w) with
  | .ok i => some i
  | .illegal _ => none

end Sys2Proof
end

