-- ==== Sys2Proof/Machine/State.lean ====
section
/-! DEFINITION. The state of the block as plain data: the Transport Engine (spec/10_state.md R23 to R30), the Mouse
Session (R33), the Output Emulator (R31, R40 to R47), MAIN's position (R34), the configuration (R7), the model's event
trace (R140, R251, R254), and the schedule that says who moves next (R70); the faults of spec/60_exceptions.md R252 and
the refusals of R253; and the state at power-on (R51). -/

namespace Sys2Proof.Machine

/-- A two-valued line (R23, R41): released, or driven low (for a switch output: asserted). -/
inductive Drv where
  | rel
  | low
deriving DecidableEq, Repr

/-- A pulse output (R41): released, low, or risen. -/
inductive PotLevel where
  | rel
  | low
  | high
deriving DecidableEq, Repr

/-- The link state `LINK` (R24), in the order of its codes. -/
inductive Link where
  | idle
  | rxData
  | rxParity
  | rxStop
  | txRequest
  | txData
  | txParity
  | txStop
  | txAck
  | txEnd
  | error
deriving DecidableEq, Repr

/-- The transport timer's mode `TMODE` (R29). -/
inductive TMode where
  | off
  | recovery
  | watchdog
deriving DecidableEq, Repr

/-- The Transport Engine's registers (R23 to R30). -/
structure Transport where
  /-- `CLK_DRV`. -/
  clkDrv : Drv
  /-- `DATA_DRV`. -/
  dataDrv : Drv
  /-- `LINK`. -/
  link : Link
  /-- `RXSH`, the receive shift register. -/
  rxsh : Byte
  /-- `BITN`, the data bits transferred in the current frame. -/
  bitn : BitVec 4
  /-- `TXB`, the transmit holding register. -/
  txb : Byte
  /-- `EDGE_EN`. -/
  edgeEn : Bool
  /-- `TMODE`. -/
  tmode : TMode
  /-- `BARKS`. -/
  barks : Nat
  /-- `RQ`, oldest byte first. -/
  rq : List Byte
  /-- `T.INIT` has run, so that the transport's fields are written (R51, R252; log 2). -/
  inited : Bool
deriving DecidableEq, Repr

/-- The Mouse Session's registers (R33). -/
structure Session where
  /-- `FRAME_BUF[0]`. -/
  frame0 : Byte
  /-- `FRAME_BUF[1]`. -/
  frame1 : Byte
  /-- `FRAME_BUF[2]`. -/
  frame2 : Byte
  /-- `FRAME_IDX`, 0..2. -/
  frameIdx : Fin 3
  /-- `SESSION_READY`. -/
  ready : Bool
deriving DecidableEq, Repr

/-- The Output Emulator's registers and output lines (R31, R40 to R47). -/
structure Emulator where
  /-- `SYNC_EN`. -/
  syncEn : Bool
  /-- `MODE`. -/
  mode : Mode
  /-- `POTX`; in Joystick mode the auxiliary switch. -/
  potX : PotLevel
  /-- `POTY`. -/
  potY : PotLevel
  sw0 : Drv
  sw1 : Drv
  sw2 : Drv
  joyUp : Drv
  joyDown : Drv
  joyLeft : Drv
  joyRight : Drv
  joyFire : Drv
  /-- `ZERO`, `TCNT_BITS` wide. -/
  zero : Nat
  /-- `CNT_X`. -/
  cntX : BitVec 6
  /-- `CNT_Y`. -/
  cntY : BitVec 6
  /-- `TGT_X`, `TCNT_BITS` wide. -/
  tgtX : Nat
  /-- `TGT_Y`, `TCNT_BITS` wide. -/
  tgtY : Nat
  /-- `TCNT`, `TCNT_BITS` wide. -/
  tcnt : Nat
  /-- `TCNT_RUN`. -/
  tcntRun : Bool
  /-- `CMP_X`, `TCNT_BITS` wide. -/
  cmpX : Nat
  /-- `CMP_Y`, `TCNT_BITS` wide. -/
  cmpY : Nat
  /-- `PULSE_RUN`. -/
  pulseRun : Bool
  /-- `E.INIT` has run, so that the emulator's fields are written (R51, R252; log 2). -/
  inited : Bool
deriving DecidableEq, Repr

/-- What MAIN goes on to when the operation it is in returns: back to the firmware, or to the startup collaborator's
remaining calls (R281). -/
inductive After where
  | firmware
  | startZero (z : Nat) (m : Mode)
  | startInit (m : Mode)
deriving DecidableEq, Repr

/-- Which `S.CMD` of `S.BOOT` is running (R175); `enable` carries the mask already read. -/
inductive BootCmd where
  | disable
  | scale
  | setres
  | resByte
  | status
  | enable (mask : BitVec 3)
deriving DecidableEq, Repr

/-- Which `S.CMD` of `S.SETRES` is running (R178). -/
inductive ResCmd where
  | disable
  | setres
  | resByte
  | enable
deriving DecidableEq, Repr

/-- Who called `S.CMD`: the firmware, `S.BOOT`, or `S.SETRES r`. -/
inductive CmdCaller where
  | op
  | boot (k : BootCmd)
  | setRes (k : ResCmd) (r : Byte) (after : After)
deriving DecidableEq, Repr

/-- Who called `T.SEND`: the firmware, the reset loop of `S.BOOT` with its attempt counter, or `S.CMD`. -/
inductive SendCaller where
  | op
  | bootReset (attempt : Nat)
  | cmd (expect : Bool) (k : CmdCaller)
deriving DecidableEq, Repr

/-- MAIN's position (R34, R70): the `hold until`, the `Delay`, or the second target write its current operation has
reached, with that procedure's local values; `idle` when it is inside no operation. -/
inductive MainPos where
  | idle
  /-- `T.SEND b`, phase 1: `hold until LINK = Idle` (R124). -/
  | sendWait (b : Byte) (c : SendCaller)
  /-- `T.SEND`, phase 3: `hold until LINK = Idle` (R124). -/
  | sendDone (c : SendCaller)
  /-- `S.CMD` with `expect = 1`: `Delay(T_RESP)` (R177). -/
  | respDelay (k : CmdCaller)
  /-- `S.BOOT`: `Delay(BOOT_POLL_INTERVAL)`, after `polls` polls of this attempt (R175). -/
  | bootPoll (attempt polls : Nat)
  /-- `S.BOOT`: `Delay(T_RESP)` before the status byte (R175). -/
  | bootStatus
  /-- `E.MOVE` in Analog mode, before step b (R221). -/
  | moveB (btn : BitVec 3)
  /-- `E.ZERO`, before step b (R211). -/
  | zeroB (after : After)
  /-- The startup collaborator, between two of its calls (R281). -/
  | startup (after : After)
deriving DecidableEq, Repr

/-- What a host operation returned to MAIN. -/
inductive Ret where
  /-- The operation returns nothing. -/
  | unit
  /-- `T.AVAIL`, `T.BUSY`. -/
  | bit (b : Bool)
  /-- `T.GET`. -/
  | byte (b : Byte)
  /-- `S.CMD`: a byte, or `0x100` for `NONE` (R92). -/
  | resp (v : BitVec 9)
  /-- `S.BOOT`. -/
  | mask (m : BitVec 3)
  /-- `S.DECODE`. -/
  | decoded (dx dy : Int) (btn : BitVec 3) (ovx ovy : Bool)
deriving DecidableEq, Repr

/-- The link-error causes of R251. -/
inductive Cause where
  | start
  | parity
  | stop
  | ack
  | watchdog
deriving DecidableEq, Repr

/-- The two PS/2 lines (R10 `Drive`). -/
inductive Line where
  | clk
  | data
deriving DecidableEq, Repr

/-- The two pulse outputs (R41). -/
inductive PotOut where
  | x
  | y
deriving DecidableEq, Repr

/-- The eight switch outputs (R41). -/
inductive SwOut where
  | sw0
  | sw1
  | sw2
  | up
  | down
  | left
  | right
  | fire
deriving DecidableEq, Repr

/-- An entry of the model's event trace (R140, R251, R254; the order of the line writes, R210). It is a model facility,
not hardware (R270): no rule reads it. -/
inductive TraceEvent where
  /-- A link error, with `LINK` before the step (R251). -/
  | linkError (c : Cause) (before : Link)
  /-- `CMD_TIMEOUT` (R254). -/
  | cmdTimeout
  /-- `BOOT_RETRY` (R254). -/
  | bootRetry
  /-- `Drive(line, lvl)` (R10). -/
  | drive (l : Line) (v : Drv)
  /-- `Emit(out, lvl)` of a pulse output (R10). -/
  | emitPot (o : PotOut) (v : PotLevel)
  /-- `Emit(out, lvl)` of a switch output (R10). -/
  | emitSw (o : SwOut) (v : Drv)
deriving DecidableEq, Repr

/-- The agents of R70. -/
inductive Agent where
  | main
  | isrEdge
  | isrTtmr
  | isrSync
  | isrPulse
  | ctr
  | dev
  | hostc
deriving DecidableEq, Repr

/-- One entry of the schedule: what happens next (R70, R106; logs 3, 8, 16, 17, 24). -/
inductive Item where
  /-- Agent `a` presents an operation word or a PS/2 byte. -/
  | op (a : Agent) (c : Code)
  /-- MAIN takes one atomic step of its pending operation, or spins in its hold. -/
  | main
  /-- The script line `WAIT`: MAIN's pending operation finishes (R106). -/
  | wait
  /-- The pseudo-operation `S.FLUSH` (R107, R176). -/
  | flush
  /-- The startup collaborator acts on the mask that `S.BOOT` returned (R281). -/
  | startup
  /-- Other agents will step between the next pair of target writes (R69). -/
  | preempt
  /-- The script's last line has been performed: the end of a finite test run (R285; log 24). -/
  | stop
deriving DecidableEq, Repr

/-- The state of the machine. -/
structure State where
  /-- The configuration, which no step writes (R7). -/
  cfg : Config
  /-- The Transport Engine. -/
  tr : Transport
  /-- The Mouse Session. -/
  ses : Session
  /-- The Output Emulator. -/
  em : Emulator
  /-- MAIN's position (R34). -/
  main : MainPos
  /-- What the last completed host operation returned (the model's own, log 6). -/
  ret : Ret
  /-- The event trace, newest entry first (R251, R254, R270; log 5). -/
  trace : List TraceEvent
  /-- The next pair of target writes is split (the model's own, log 8). -/
  preempt : Bool
  /-- The schedule, next entry first (the model's own, log 3). -/
  inputs : List Item
deriving DecidableEq, Repr

/-- The faults of R252. A fault ends the run: the spec's fault mark, which no later step clears, is this outcome
(log 4). Each is safe: nothing is proved of a run that breaks a precondition. -/
inductive Fault where
  /-- `F_GET_EMPTY` (1): raised by `T.GET` when `RQ` is empty (R62, R123). Safe. -/
  | getEmpty
  /-- `F_UNINIT` (2): raised by an operation that reads state no initialisation has written (R252). Safe. -/
  | uninit
  /-- `F_CONFIG` (3): raised by `E.ZERO` and by the check at start when the configuration is not well formed (R8,
  R252). Safe. -/
  | config
  /-- `F_BAD_RES` (4): raised by `S.SETRES` called with r > 3 (R178). Safe. -/
  | badRes
deriving DecidableEq, Repr

/-- The refusals: R253's, and the model's own for a schedule that is no execution. Each is safe: it stops. -/
inductive Refusal where
  /-- Raised by an arm of `exec` whose instruction has no meaning yet. Safe. -/
  | notModelled (mnemonic : String)
  /-- Raised by the step on an illegal operation word or an unnamed PS/2 byte (R103, R253). Safe. -/
  | illegalWord (e : DecodeError)
  /-- Raised by the step when an agent presents an event word that R101 gives to another (R253), or, by the model's
  choice (log 25, DESIGN CHOICE), a host operation or a PS/2 byte that is not its own. Safe. -/
  | wrongAgent (a : Agent)
  /-- Raised by every host operation while MAIN is inside another operation (R283: MAIN is held). Safe. -/
  | mainBusy
  /-- Raised by `WAIT` when the pending operation's hold condition is false (R106: the script is ill-formed). Safe. -/
  | waitNotReady
  /-- Raised by the end of a script while MAIN has a pending operation (R285: the script is ill-formed). Safe. -/
  | scriptPending
  /-- Raised by the startup collaborator when the last operation returned no boot mask (R281). Safe. -/
  | noBootMask
deriving DecidableEq, Repr

/-- Power-on under a configuration (R51, the power-on column). The fields R51 calls unwritten hold the values of
log 2 (DESIGN CHOICE). -/
def State.powerOn (cfg : Config) : State where
  cfg := cfg
  tr :=
    { clkDrv := .rel, dataDrv := .rel, link := .idle, rxsh := 0, bitn := 0, txb := 0,
      edgeEn := false, tmode := .off, barks := 0, rq := [], inited := false }
  ses := { frame0 := 0, frame1 := 0, frame2 := 0, frameIdx := 0, ready := false }
  em :=
    { syncEn := false, mode := .analog, potX := .rel, potY := .rel, sw0 := .rel, sw1 := .rel,
      sw2 := .rel, joyUp := .rel, joyDown := .rel, joyLeft := .rel, joyRight := .rel,
      joyFire := .rel, zero := cfg.zeroDefault, cntX := 0, cntY := 0, tgtX := 0, tgtY := 0,
      tcnt := 0, tcntRun := false, cmpX := 0, cmpY := 0, pulseRun := false, inited := false }
  main := .idle
  ret := .unit
  trace := []
  preempt := false
  inputs := []

/-- The machine right after power-on, under the default configuration (R51, log 1). -/
def State.reset : State := State.powerOn Config.default

end Sys2Proof.Machine
end

