-- ==== Sys2Proof/Machine/Flags.lean ====
section
/-! DEFINITION. The status outputs of spec/10_state.md R32, the line level of R23, the parity of spec/30_encoding.md
R81, the wire frame of R83, and the codes of the enumerations (R24, R29, R251, R252, R254). All are computed from
state; the block stores no flag. -/

namespace Sys2Proof.Machine

/-- `BUSY = (LINK ≠ Idle)` (R32). -/
def busy (t : Transport) : Bool := decide (t.link ≠ .idle)

/-- `AVAIL = (|RQ| > 0)` (R32). -/
def avail (t : Transport) : Bool := decide (0 < t.rq.length)

/-- The number of 1 bits of a byte (R9 `popcount`). -/
def popcount (b : Byte) : Nat := ((List.range 8).filter fun i => b.getLsbD i).length

/-- `OddPar(d) = 1 − (popcount(d) mod 2)`, as a bit (R81). -/
def oddPar (d : Byte) : Bool := decide (popcount d % 2 = 0)

/-- The parity check of a received frame: `(popcount(RXSH) + p) mod 2 = 1` (R81, R132). -/
def parityOk (rxsh : Byte) (p : Bool) : Bool := decide ((popcount rxsh + p.toNat) % 2 = 1)

/-- `Frame(b)`: start, data least significant first, odd parity, stop (R83). -/
def frameBits (b : Byte) : List Bool :=
  [false, b.getLsbD 0, b.getLsbD 1, b.getLsbD 2, b.getLsbD 3, b.getLsbD 4, b.getLsbD 5, b.getLsbD 6,
    b.getLsbD 7, oddPar b, true]

/-- A bit put on a PS/2 line (R11: `Drive(line, b ? REL : LOW)`). -/
def drvOfBit (b : Bool) : Drv := if b then .rel else .low

/-- The level a PS/2 line has when the two sides drive it so: the wired AND (R23). -/
def lineLevel (host dev : Drv) : Bool := decide (host = .rel) && decide (dev = .rel)

/-- A switch output of a button or direction: asserted is `LOW` (R11). -/
def switchOf (asserted : Bool) : Drv := if asserted then .low else .rel

/-- The Tx states (R164 (b), R160). -/
def Link.isTx : Link → Bool
  | .txRequest | .txData | .txParity | .txStop | .txAck | .txEnd => true
  | _ => false

/-- The Rx states (R121). -/
def Link.isRx : Link → Bool
  | .rxData | .rxParity | .rxStop => true
  | _ => false

/-- The code of a link state (R24). -/
def Link.code : Link → BitVec 4
  | .idle => 0
  | .rxData => 1
  | .rxParity => 2
  | .rxStop => 3
  | .txRequest => 4
  | .txData => 5
  | .txParity => 6
  | .txStop => 7
  | .txAck => 8
  | .txEnd => 9
  | .error => 10

/-- The code of the timer mode (R29). -/
def TMode.code : TMode → Nat
  | .off => 0
  | .recovery => 1
  | .watchdog => 2

/-- The code of a link-error cause (R251). -/
def Cause.code : Cause → Nat
  | .start => 1
  | .parity => 2
  | .stop => 3
  | .ack => 4
  | .watchdog => 5

/-- The fault codes (R252). -/
def Fault.code : Fault → Nat
  | .getEmpty => 1
  | .uninit => 2
  | .config => 3
  | .badRes => 4

/-- The label codes of the trace: causes (R251), session outcomes (R254); line writes have none. -/
def TraceEvent.label : TraceEvent → Option Nat
  | .linkError c _ => some c.code
  | .cmdTimeout => some 16
  | .bootRetry => some 17
  | _ => none

end Sys2Proof.Machine
end

