-- ==== Sys2Proof/Machine/Operands.lean ====
section
/-! DEFINITION. What the operations compute from their operands: the delta assembly of spec/30_encoding.md R85, the
button mask of R86, the response of R92, the counter update of spec/42_output.md R216, the target function of R215,
the well-formedness of spec/00_scope.md R8; the presenting agents of R101; and the setting of one bit (R131). -/

namespace Sys2Proof.Machine

/-- `v[n] <- d` in a byte; an `n` above 7 names no bit and changes nothing (log 14). -/
def setBit (v : Byte) (n : Nat) (d : Bool) : Byte :=
  if d then v ||| (1#8 <<< n) else v &&& ~~~(1#8 <<< n)

/-- `sign ? zext(b) − 256 : zext(b)` (R85). -/
def delta (sign : Bool) (b : Byte) : Int := if sign then (b.toNat : Int) - 256 else (b.toNat : Int)

/-- `btn = f0[2:0]` (R86), also the mask of a status byte (R89). -/
def buttons (f0 : Byte) : BitVec 3 := f0.extractLsb' 0 3

/-- `S.DECODE`'s dx: bit 4 of the status byte is the X sign (R85). -/
def decodeDx (f0 f1 : Byte) : Int := delta (f0.getLsbD 4) f1

/-- `S.DECODE`'s dy: bit 5 of the status byte is the Y sign (R85). -/
def decodeDy (f0 f2 : Byte) : Int := delta (f0.getLsbD 5) f2

/-- The sentinel `NONE = 0x100` (R92). -/
def noResponse : BitVec 9 := 0x100

/-- A response that is a byte (R92). -/
def responseOf (b : Byte) : BitVec 9 := b.zeroExtend 9

/-- `Y_SIGN · dy` (R220, R222). -/
def signedDy (cfg : Config) (dy : Int) : Int :=
  match cfg.ySign with
  | .plus => dy
  | .minus => -dy

/-- `Upd(c, d) = (c + d) mod CNT_MOD` (R216), kept in the counter's six bits. -/
def upd (cfg : Config) (c : BitVec 6) (d : Int) : BitVec 6 :=
  BitVec.ofNat 6 (((c.toNat : Int) + d) % (cfg.cntMod : Int)).toNat

/-- `floor(c · SCALE_NUM / SCALE_DEN)` (R215: the multiplication first). -/
def scaled (cfg : Config) (c : Nat) : Nat := c * cfg.scaleNum / cfg.scaleDen

/-- `T(c) = ZERO + floor(c · SCALE_NUM / SCALE_DEN)` (R215). -/
def target (cfg : Config) (z c : Nat) : Nat := z + scaled cfg c

/-- A value as a register of `TCNT_BITS` bits holds it (R42 to R46; log 12). -/
def inWidth (cfg : Config) (v : Nat) : Nat := v % 2 ^ cfg.tcntBits

/-- The largest target of a zero point: `ZERO + floor((CNT_MOD − 1) · SCALE_NUM / SCALE_DEN)` (R8). -/
def maxTarget (cfg : Config) (z : Nat) : Nat := target cfg z (cfg.cntMod - 1)

/-- `WellFormed(ZERO := z)` (R8, R211): `z ≥ 1`, and the largest target is below `2^TCNT_BITS` and below
`SYNC_PERIOD`. A zero denominator gives no largest target, so it is not well formed (log 13). -/
def zeroWellFormed (cfg : Config) (z : Nat) : Bool :=
  decide (cfg.scaleDen ≠ 0) && decide (1 ≤ z) && decide (maxTarget cfg z < 2 ^ cfg.tcntBits)
    && decide (maxTarget cfg z < cfg.syncPeriod)

/-- The configuration check at start (R8, R252): `WellFormed` of the default zero point; and, so that the counters
fit their six bits and the queue can hold a byte, `1 ≤ CNT_MOD ≤ 64` and `RQ_CAP ≥ 1` (log 13, DEDUCED). -/
def configOk (cfg : Config) : Bool :=
  zeroWellFormed cfg cfg.zeroDefault && decide (1 ≤ cfg.cntMod) && decide (cfg.cntMod ≤ 64)
    && decide (1 ≤ cfg.rqCap)

/-- The agents R101 names for an instruction: MAIN for a host operation, and for an event the agent that produces it
and the agent that takes it (log 20). A PS/2 byte belongs to the side that sends it (log 10). -/
def agentsOf : Instr → List Agent
  | .evFall _ => [.dev, .isrEdge]
  | .evTtmr => [.isrTtmr]
  | .evBidle => [.dev]
  | .evSync => [.hostc, .isrSync]
  | .evTck => [.ctr]
  | .evPulse => [.isrPulse]
  | .rspBatOk | .rspAck | .rspId => [.dev]
  | .tInit | .tEnrx _ | .tAvail | .tGet | .tSend _ | .tBusy => [.main]
  | .sBoot | .sCmd _ _ | .sSetres _ | .sDecode _ _ _ | .sPoll => [.main]
  | .eInit _ | .eZero _ | .eMove _ _ _ => [.main]
  | .cmdReset | .cmdDisable | .cmdEnable | .cmdScale21 | .cmdSetres | .cmdStatus => [.main]

/-- The instruction is a host operation, which MAIN performs. -/
def isMainOp (i : Instr) : Bool := decide (agentsOf i = [.main])

end Sys2Proof.Machine
end

