-- ==== Sys2Proof/Machine/Ops.lean ====
section
/-! DEFINITION. The named operations over the state that the instructions share: the primitives `Drive` and `Emit` of
spec/00_scope.md R10, the queue primitives of spec/20_memory.md R61 to R63, entering the error state and recovering from
it (spec/40_transport.md R140, R141), the request-to-send (R124), the target latches (spec/42_output.md R215), and how a
host operation is guarded and returns (spec/60_exceptions.md R252, R261). -/

namespace Sys2Proof.Machine

/-- What an operation answers. -/
abbrev Result := Host.Outcome State Fault Refusal

/-- An entry into the event trace (R251, R254; log 5). -/
def note (e : TraceEvent) (s : State) : State := { s with trace := e :: s.trace }

/-- `Drive(line, lvl)` (R10, R23). -/
def drive (l : Line) (v : Drv) (s : State) : State :=
  note (.drive l v)
    (match l with
      | .clk => { s with tr.clkDrv := v }
      | .data => { s with tr.dataDrv := v })

/-- `Emit(out, lvl)` of a pulse output (R10, R41). -/
def emitPot (o : PotOut) (v : PotLevel) (s : State) : State :=
  note (.emitPot o v)
    (match o with
      | .x => { s with em.potX := v }
      | .y => { s with em.potY := v })

/-- `Emit(out, lvl)` of a switch output (R10, R41). -/
def emitSw (o : SwOut) (v : Drv) (s : State) : State :=
  note (.emitSw o v)
    (match o with
      | .sw0 => { s with em.sw0 := v }
      | .sw1 => { s with em.sw1 := v }
      | .sw2 => { s with em.sw2 := v }
      | .up => { s with em.joyUp := v }
      | .down => { s with em.joyDown := v }
      | .left => { s with em.joyLeft := v }
      | .right => { s with em.joyRight := v }
      | .fire => { s with em.joyFire := v })

/-- The queue after `Push(b)`: at capacity the oldest unread byte is dropped (R61). -/
def pushed (cap : Nat) (rq : List Byte) (b : Byte) : List Byte :=
  (if rq.length = cap then rq.tail else rq) ++ [b]

/-- `Push(b)` (R61). -/
def push (b : Byte) (s : State) : State := { s with tr.rq := pushed s.cfg.rqCap s.tr.rq b }

/-- `Clear()`, and what `Flush` leaves (R63, R176). -/
def clear (s : State) : State := { s with tr.rq := [] }

/-- `EnterError(cause)` (R140): taking the block's one exception. It saves nothing (R262). -/
def enterError (c : Cause) (s : State) : State :=
  let before := s.tr.link
  let s := drive .clk .low { s with tr.link := .error, tr.edgeEn := false }
  let s := drive .data .rel s
  note (.linkError c before) { s with tr.tmode := .recovery, tr.barks := 0 }

/-- Recovery (R141): the return from `Error` (R263). -/
def recover (s : State) : State :=
  let s := { s with tr.link := .idle, tr.bitn := 0, tr.tmode := .off }
  let s := drive .clk .rel s
  { s with tr.edgeEn := true }

/-- Phase 2 of `T.SEND b` (R124): the request-to-send, one atomic step; MAIN then holds in phase 3. -/
def requestToSend (b : Byte) (c : SendCaller) (s : State) : State :=
  let s := { s with tr.txb := b, tr.edgeEn := false }
  let s := drive .clk .low s
  let s := drive .data .low s
  let s := drive .clk .rel s
  { s with
    tr.bitn := 0, tr.link := .txRequest, tr.edgeEn := true, tr.tmode := .watchdog, tr.barks := 0,
    main := .sendDone c }

/-- MAIN arrives at `T.SEND b`, phase 1 (R124). -/
def holdSend (b : Byte) (c : SendCaller) (s : State) : State := { s with main := .sendWait b c }

/-- A call of `T.SEND b`: phase 2 in the same step when the link is idle (R124), else MAIN holds. -/
def startSend (b : Byte) (c : SendCaller) (s : State) : State :=
  if s.tr.link = .idle then requestToSend b c s else holdSend b c s

/-- `TGT_X <- T(CNT_X)` (R215), one atomic step. -/
def latchX (s : State) : State :=
  { s with em.tgtX := inWidth s.cfg (target s.cfg s.em.zero s.em.cntX.toNat) }

/-- `TGT_Y <- T(CNT_Y)` (R215), one atomic step. -/
def latchY (s : State) : State :=
  { s with em.tgtY := inWidth s.cfg (target s.cfg s.em.zero s.em.cntY.toNat) }

/-- The host operation returns `r` to MAIN. -/
def finish (r : Ret) (s : State) : State := { s with main := .idle, ret := r }

/-- A host operation returns nothing and MAIN goes on: to the firmware, or to the startup collaborator's next call. -/
def goOn (a : After) (s : State) : State :=
  match a with
  | .firmware => finish .unit s
  | .startZero z m => { s with main := .startup (.startZero z m) }
  | .startInit m => { s with main := .startup (.startInit m) }

/-- A host operation is called only when MAIN is inside no other (R283; the first check of R261). -/
def onMain (s : State) (k : State → Result) : Result :=
  if s.main = .idle then k s else .refused .mainBusy

/-- `F_UNINIT` before the first `T.INIT` (R252; the second check of R261). -/
def afterTInit (s : State) (k : State → Result) : Result :=
  if s.tr.inited then k s else .fault .uninit

/-- A host operation of the transport or the session that needs `T.INIT` (R252, R261). -/
def transportOp (s : State) (k : State → Result) : Result := onMain s fun s => afterTInit s k

end Sys2Proof.Machine
end

