-- ==== Sys2Proof/Machine/Emulator.lean ====
section
/-! DEFINITION. The meanings of the Output Emulator's operations and events, spec/42_output.md R210 to R232. -/

namespace Sys2Proof.Machine

/-- Every output line to neutral, in the order of R210. -/
def releaseAll (s : State) : State :=
  let s := emitPot .y .rel (emitPot .x .rel s)
  let s := emitSw .sw2 .rel (emitSw .sw1 .rel (emitSw .sw0 .rel s))
  let s := emitSw .down .rel (emitSw .up .rel s)
  emitSw .fire .rel (emitSw .right .rel (emitSw .left .rel s))

/-- The atomic step of `E.INIT m` (R210). -/
def initEmulator (m : Mode) (s : State) : State :=
  let s := releaseAll s
  let s :=
    { s with
      em.syncEn := false, em.tcntRun := false, em.tcnt := 0, em.cmpX := 0, em.cmpY := 0,
      em.pulseRun := false }
  let s := latchY (latchX { s with em.mode := m, em.cntX := 0, em.cntY := 0, em.inited := true })
  match m with
  | .analog => { s with em.syncEn := true }
  | .joystick => s

/-- `E.INIT m` (R210). -/
def execEInit (m : Mode) (s : State) : Result :=
  onMain s fun s => .next (finish .unit (initEmulator m s))

/-- `E.ZERO z` (R211) on behalf of the firmware or of the startup collaborator. Before `E.INIT` only `ZERO` is
written. With `preempt` set, MAIN stops between steps a and b (R69, log 8). -/
def zeroOp (z : Nat) (a : After) (s : State) : Result :=
  if zeroWellFormed s.cfg z then
    let s := { s with em.zero := z }
    if s.em.inited then
      let s := latchX s
      if s.preempt then .next { s with preempt := false, main := .zeroB a }
      else .next (goOn a (latchY s))
    else .next (goOn a s)
  else .fault .config

/-- `E.ZERO z` (R211). -/
def execEZero (z : BitVec 16) (s : State) : Result :=
  onMain s fun s => zeroOp z.toNat .firmware s

/-- The three button switches of Analog mode (R221). -/
def emitButtons (btn : BitVec 3) (s : State) : State :=
  let s := emitSw .sw0 (switchOf (btn.getLsbD 0)) s
  let s := emitSw .sw1 (switchOf (btn.getLsbD 1)) s
  emitSw .sw2 (switchOf (btn.getLsbD 2)) s

/-- `AnalogMove(btn)` from step b on (R221). -/
def analogMoveB (btn : BitVec 3) (s : State) : State := emitButtons btn (latchY s)

/-- `JoystickMove(dx, dy, btn)` (R222). -/
def joystickMove (dx dy : Int) (btn : BitVec 3) (s : State) : State :=
  let s := latchY (latchX s)
  let s := emitSw .right (switchOf (decide (0 < dx))) s
  let s := emitSw .left (switchOf (decide (dx < 0))) s
  let s := emitSw .up (switchOf (decide (0 < signedDy s.cfg dy))) s
  let s := emitSw .down (switchOf (decide (signedDy s.cfg dy < 0))) s
  let s := emitSw .fire (switchOf (btn.getLsbD s.cfg.fireBit)) s
  let s := emitPot .x (if btn.getLsbD s.cfg.auxBit then .low else .rel) s
  { s with em.pulseRun := true }

/-- The counter updates of `E.MOVE` (R220). -/
def moveCounters (dx dy : Int) (s : State) : State :=
  { s with em.cntX := upd s.cfg s.em.cntX dx, em.cntY := upd s.cfg s.em.cntY (signedDy s.cfg dy) }

/-- `E.MOVE` (R220), also as the Movement Router's call (R186). In Analog mode with `preempt` set, MAIN stops between
steps a and b (R69, log 8). -/
def moveOp (dx dy : Int) (btn : BitVec 3) (s : State) : Result :=
  if s.em.inited then
    let s := moveCounters dx dy s
    match s.em.mode with
    | .analog =>
      let s := latchX s
      if s.preempt then .next { s with preempt := false, main := .moveB btn }
      else .next (finish .unit (analogMoveB btn s))
    | .joystick => .next (finish .unit (joystickMove dx dy btn s))
  else .fault .uninit

/-- `E.MOVE dx, dy, btn` (R220). -/
def execEMove (dx dy : BitVec 9) (btn : BitVec 3) (s : State) : Result :=
  onMain s fun s => moveOp dx.toInt dy.toInt btn s

/-- The measurement synchronization edge (R230). -/
def syncEdge (s : State) : State :=
  if s.em.syncEn then
    let s := emitPot .y .low (emitPot .x .low s)
    { s with em.cmpX := s.em.tgtX, em.cmpY := s.em.tgtY, em.tcnt := 0, em.tcntRun := true }
  else s

/-- `EV.SYNC` (R230). -/
def execEvSync (s : State) : Result := .next (syncEdge s)

/-- A compare channel: the line rises when the counter equals it (R231), in Analog mode only (R46; log 14). -/
def compareChannel (o : PotOut) (cmp : Nat) (s : State) : State :=
  if s.em.mode = .analog ∧ s.em.tcnt = cmp then emitPot o .high s else s

/-- One tick of the free-running counter (R231). -/
def counterTick (s : State) : State :=
  if s.em.tcntRun then
    let s := { s with em.tcnt := inWidth s.cfg (s.em.tcnt + 1) }
    compareChannel .y s.em.cmpY (compareChannel .x s.em.cmpX s)
  else s

/-- `EV.TCK` (R231). -/
def execEvTck (s : State) : Result := .next (counterTick s)

/-- The joystick pulse timer expires (R232). -/
def pulseEnd (s : State) : State :=
  if s.em.pulseRun then
    let s := emitSw .down .rel (emitSw .up .rel s)
    let s := emitSw .fire .rel (emitSw .right .rel (emitSw .left .rel s))
    { s with em.pulseRun := false }
  else s

/-- `EV.PULSE` (R232). -/
def execEvPulse (s : State) : Result := .next (pulseEnd s)

end Sys2Proof.Machine
end

