-- ==== Sys2Proof/Machine/Session.lean ====
section
/-! DEFINITION. The Mouse Session of spec/41_session.md (R170 to R187) and MAIN's steps: each session operation is a
procedure that MAIN runs in segments, from one `hold until` or `Delay` to the next (spec/20_memory.md R70, log 7); and
the startup collaborator of spec/70_reset_and_hazards.md R281. -/

namespace Sys2Proof.Machine

/-- A call of `S.CMD code, 1` from inside a procedure: MAIN arrives at `T.SEND code`, phase 1. -/
def holdCmd (code : Byte) (k : CmdCaller) (s : State) : State := holdSend code (.cmd true k) s

/-- `S.CMD` returns `v` to its caller (R175, R177, R178). -/
def cmdReturn (k : CmdCaller) (v : BitVec 9) (s : State) : State :=
  match k with
  | .op => finish (.resp v) s
  | .boot .disable => holdCmd s.cfg.cmdScale21 (.boot .scale) (clear s)
  | .boot .scale => holdCmd s.cfg.cmdSetres (.boot .setres) s
  | .boot .setres => holdCmd (s.cfg.defaultRes.zeroExtend 8) (.boot .resByte) s
  | .boot .resByte => holdCmd s.cfg.cmdStatus (.boot .status) s
  | .boot .status => { s with main := .bootStatus }
  | .boot (.enable mask) => finish (.mask mask) { s with ses.frameIdx := 0, ses.ready := true }
  | .setRes .disable r a => holdCmd s.cfg.cmdSetres (.setRes .setres r a) s
  | .setRes .setres r a => holdCmd r (.setRes .resByte r a) s
  | .setRes .resByte r a => holdCmd s.cfg.cmdEnable (.setRes .enable r a) s
  | .setRes .enable _ a => goOn a { s with ses.frameIdx := 0 }

/-- A reset attempt found no success code: the whole reset sequence is retried (R175, R254). -/
def bootRetry (attempt : Nat) (s : State) : State :=
  holdSend s.cfg.cmdReset (.bootReset (attempt + 1)) (note .bootRetry s)

/-- `T.SEND` returns to its caller (R124 phase 3; R175, R177). -/
def sendReturn (c : SendCaller) (s : State) : State :=
  match c with
  | .op => finish .unit s
  | .bootReset n => if s.cfg.bootPolls = 0 then bootRetry n s else { s with main := .bootPoll n 0 }
  | .cmd true k => { s with main := .respDelay k }
  | .cmd false k => cmdReturn k noResponse s

/-- `Delay(T_RESP)` of `S.CMD` ends: the oldest queued byte, else the sentinel (R177, R254). -/
def respStep (k : CmdCaller) (s : State) : State :=
  match s.tr.rq with
  | [] => cmdReturn k noResponse (note .cmdTimeout s)
  | b :: rest => cmdReturn k (responseOf b) { s with tr.rq := rest }

/-- The loop `while T.AVAIL: if T.GET = RSP_BAT_OK: exit` (R175): the queue behind the first success code, or `none`
when every byte was discarded. -/
def afterSuccess (ok : Byte) : List Byte → Option (List Byte)
  | [] => none
  | b :: rest => if b = ok then some rest else afterSuccess ok rest

/-- `Delay(BOOT_POLL_INTERVAL)` of `S.BOOT` ends: one poll (R175). -/
def bootPollStep (attempt polls : Nat) (s : State) : State :=
  match afterSuccess s.cfg.rspBatOk s.tr.rq with
  | some rest => holdCmd s.cfg.cmdDisable (.boot .disable) { s with tr.rq := rest }
  | none =>
    let s := clear s
    if polls + 1 < s.cfg.bootPolls then { s with main := .bootPoll attempt (polls + 1) }
    else bootRetry attempt s

/-- `Delay(T_RESP)` before the status byte ends: the mask is read, the queue flushed, streaming re-enabled (R175). -/
def bootStatusStep (s : State) : State :=
  let mask := match s.tr.rq with
    | [] => 0
    | b :: _ => buttons b
  holdCmd s.cfg.cmdEnable (.boot (.enable mask)) (clear s)

/-- `S.SETRES r` (R178) on behalf of the firmware or of the startup collaborator. -/
def setResOp (r : Byte) (a : After) (s : State) : Result :=
  if 3 < r.toNat then .fault .badRes
  else .next (startSend s.cfg.cmdDisable (.cmd true (.setRes .disable r a)) s)

/-- The startup collaborator's next call (R281). -/
def startupStep (a : After) (s : State) : Result :=
  match a with
  | .firmware => .next (finish .unit s)
  | .startZero z m => zeroOp z (.startInit m) s
  | .startInit m => .next (finish .unit (initEmulator m s))

/-- One step of MAIN inside its pending operation: from the current hold or delay to the next one. In a hold whose
condition is false MAIN spins, and idle it does nothing. -/
def mainStep (s : State) : Result :=
  match s.main with
  | .idle => .next s
  | .sendWait b c => .next (if s.tr.link = .idle then requestToSend b c s else s)
  | .sendDone c => .next (if s.tr.link = .idle then sendReturn c s else s)
  | .respDelay k => .next (respStep k s)
  | .bootPoll n p => .next (bootPollStep n p s)
  | .bootStatus => .next (bootStatusStep s)
  | .moveB btn => .next (finish .unit (analogMoveB btn s))
  | .zeroB a => .next (goOn a (latchY s))
  | .startup a => startupStep a s

/-- MAIN's pending operation can go on: there is one, and it is in no hold whose condition is false (R70). -/
def mainReady (s : State) : Bool :=
  match s.main with
  | .idle => false
  | .sendWait _ _ => decide (s.tr.link = .idle)
  | .sendDone _ => decide (s.tr.link = .idle)
  | .respDelay _ => true
  | .bootPoll _ _ => true
  | .bootStatus => true
  | .moveB _ => true
  | .zeroB _ => true
  | .startup _ => true

/-- `S.BOOT` (R175). -/
def execSBoot (s : State) : Result :=
  transportOp s fun s => .next (startSend s.cfg.cmdReset (.bootReset 1) s)

/-- `S.CMD code, expect` (R177). -/
def execSCmd (code : Byte) (expect : Bool) (s : State) : Result :=
  transportOp s fun s => .next (startSend code (.cmd expect .op) s)

/-- `S.SETRES r` (R178). -/
def execSSetres (r : Byte) (s : State) : Result := transportOp s fun s => setResOp r .firmware s

/-- `S.DECODE f0, f1, f2` (R185): it writes no state and never faults. -/
def execSDecode (f0 f1 f2 : Byte) (s : State) : Result :=
  onMain s fun s =>
    .next (finish
      (.decoded (decodeDx f0 f1) (decodeDy f0 f2) (buttons f0) (f0.getLsbD 6) (f0.getLsbD 7)) s)

/-- The byte is not taken as the first byte of a frame: `RESYNC = BIT3`, at `FRAME_IDX = 0`, bit 3 clear (R182). -/
def resyncDiscards (b : Byte) (s : State) : Bool :=
  decide (s.cfg.resync = .bit3) && decide (s.ses.frameIdx = 0) && !b.getLsbD 3

/-- A byte of the movement frame arrives; the third one completes it and goes to the Movement Router (R181, R186). -/
def frameByte (b : Byte) (s : State) : Result :=
  match s.ses.frameIdx with
  | 0 => .next (finish .unit { s with ses.frame0 := b, ses.frameIdx := 1 })
  | 1 => .next (finish .unit { s with ses.frame1 := b, ses.frameIdx := 2 })
  | 2 =>
    let s := { s with ses.frame2 := b, ses.frameIdx := 0 }
    moveOp (decodeDx s.ses.frame0 s.ses.frame1) (decodeDy s.ses.frame0 s.ses.frame2)
      (buttons s.ses.frame0) s

/-- `S.POLL` (R181, R182). -/
def execSPoll (s : State) : Result :=
  transportOp s fun s =>
    if s.ses.ready then
      match s.tr.rq with
      | [] => .next (finish .unit s)
      | b :: rest =>
        let s := { s with tr.rq := rest }
        if resyncDiscards b s then .next (finish .unit s) else frameByte b s
    else .fault .uninit

/-- The pseudo-operation `S.FLUSH`, `while T.AVAIL: T.GET` (R107, R176); its last call is a `T.AVAIL` that returns 0. -/
def flushOp (s : State) : Result :=
  transportOp s fun s => .next (finish (.bit false) (clear s))

/-- The startup collaborator (R281): it takes the mask `S.BOOT` returned and makes its calls in order. -/
def startupOp (s : State) : Result :=
  onMain s fun s =>
    match s.ret with
    | .mask mk =>
      let c := s.cfg.startup[mk.toFin]
      let a : After := match c.zero with
        | some z => .startZero z c.mode
        | none => .startInit c.mode
      match c.res with
      | some r => afterTInit s fun s => setResOp r a s
      | none => .next (goOn a s)
    | _ => .refused .noBootMask

end Sys2Proof.Machine
end

