-- ==== Sys2Proof/Machine/Transport.lean ====
section
/-! DEFINITION. The meanings of the Transport Engine's operations and events, spec/40_transport.md R120 to R161. -/

namespace Sys2Proof.Machine

/-- `T.INIT` (R120). -/
def execTInit (s : State) : Result :=
  onMain s fun s =>
    let s := clear { s with tr.link := .idle }
    let s := { s with em.syncEn := false, tr.edgeEn := false }
    let s := drive .data .rel (drive .clk .rel s)
    .next (finish .unit
      { s with
        tr.tmode := .off, tr.barks := 0, tr.bitn := 0, tr.rxsh := 0, tr.txb := 0, tr.inited := true })

/-- `T.ENRX 1` (R121). -/
def enableReceive (s : State) : State :=
  let s := { s with tr.link := .idle, tr.bitn := 0, tr.edgeEn := true }
  let s := drive .data .rel (drive .clk .rel s)
  { s with tr.tmode := .off, tr.barks := 0 }

/-- `T.ENRX 0` (R121): `LINK` and a pending recovery stay. -/
def disableReceive (s : State) : State := drive .clk .low { s with tr.edgeEn := false }

/-- `T.ENRX e` (R121). -/
def execTEnrx (e : Bool) (s : State) : Result :=
  transportOp s fun s => .next (finish .unit (if e then enableReceive s else disableReceive s))

/-- `T.AVAIL` (R122). -/
def execTAvail (s : State) : Result := transportOp s fun s => .next (finish (.bit (avail s.tr)) s)

/-- `T.GET` (R123): `Pop` of R62, a fault on the empty queue. -/
def execTGet (s : State) : Result :=
  transportOp s fun s =>
    match s.tr.rq with
    | [] => .fault .getEmpty
    | b :: rest => .next (finish (.byte b) { s with tr.rq := rest })

/-- `T.SEND b` (R124): phase 2 at once when the link is idle, else the hold of phase 1. -/
def execTSend (b : Byte) (s : State) : Result := transportOp s fun s => .next (startSend b .op s)

/-- `T.BUSY` (R125). -/
def execTBusy (s : State) : Result := transportOp s fun s => .next (finish (.bit (busy s.tr)) s)

/-- The start bit (R130). -/
def fallIdle (d : Bool) (s : State) : State :=
  if d then enterError .start s else { s with tr.rxsh := 0, tr.bitn := 0, tr.link := .rxData }

/-- A data bit (R131). -/
def fallRxData (d : Bool) (s : State) : State :=
  let s := { s with tr.rxsh := setBit s.tr.rxsh s.tr.bitn.toNat d, tr.bitn := s.tr.bitn + 1 }
  if s.tr.bitn = 8 then { s with tr.link := .rxParity } else s

/-- The parity bit (R132). -/
def fallRxParity (d : Bool) (s : State) : State :=
  if parityOk s.tr.rxsh d then { s with tr.link := .rxStop } else enterError .parity s

/-- The stop bit (R133). -/
def fallRxStop (d : Bool) (s : State) : State :=
  if d then
    let s := push s.tr.rxsh s
    { s with tr.bitn := 0, tr.link := .idle }
  else enterError .stop s

/-- The device's first clock: the host drives data bit 0 (R150). -/
def fallTxRequest (s : State) : State :=
  let s := drive .data (drvOfBit (s.tr.txb.getLsbD 0)) s
  { s with tr.bitn := 1, tr.link := .txData }

/-- Data bits 1 to 7 (R151). -/
def fallTxData (s : State) : State :=
  let s := drive .data (drvOfBit (s.tr.txb.getLsbD s.tr.bitn.toNat)) s
  let s := { s with tr.bitn := s.tr.bitn + 1 }
  if s.tr.bitn = 8 then { s with tr.link := .txParity } else s

/-- The host drives the parity bit (R152). -/
def fallTxParity (s : State) : State :=
  let s := drive .data (drvOfBit (oddPar s.tr.txb)) s
  { s with tr.link := .txStop }

/-- The host releases DATA for the stop bit (R153). -/
def fallTxStop (s : State) : State :=
  let s := drive .data .rel s
  { s with tr.link := .txAck }

/-- The device's acknowledge bit (R154). -/
def fallTxAck (d : Bool) (s : State) : State :=
  if d then enterError .ack s else { s with tr.link := .txEnd }

/-- A falling edge of `PS2_CLK`: lost while `EDGE_EN = 0`, else dispatched on `LINK` (R126, R155, R156). -/
def takeFall (d : Bool) (s : State) : State :=
  if s.tr.edgeEn then
    match s.tr.link with
    | .idle => fallIdle d s
    | .rxData => fallRxData d s
    | .rxParity => fallRxParity d s
    | .rxStop => fallRxStop d s
    | .txRequest => fallTxRequest s
    | .txData => fallTxData s
    | .txParity => fallTxParity s
    | .txStop => fallTxStop s
    | .txAck => fallTxAck d s
    | .txEnd => s
    | .error => s
  else s

/-- `EV.FALL d` (R126). -/
def execEvFall (d : Bool) (s : State) : Result := .next (takeFall d s)

/-- One bark of the transmit watchdog (R160). -/
def bark (s : State) : State :=
  if s.tr.link.isTx then
    let s := { s with tr.barks := s.tr.barks + 1 }
    if s.cfg.barkLimit ≤ s.tr.barks then enterError .watchdog s else s
  else { s with tr.tmode := .off }

/-- The transport timer expires (R141, R160, R161). -/
def timerTick (s : State) : State :=
  match s.tr.tmode with
  | .off => s
  | .recovery => recover s
  | .watchdog => bark s

/-- `EV.TTMR`. -/
def execEvTtmr (s : State) : Result := .next (timerTick s)

/-- Both lines observed high (R157); before `T.INIT` an event has no effect (log 14). -/
def busIdle (s : State) : State :=
  if s.tr.inited ∧ s.tr.link = .txEnd then
    { s with tr.link := .idle, tr.bitn := 0, tr.tmode := .off, tr.barks := 0 }
  else s

/-- `EV.BIDLE` (R157). -/
def execEvBidle (s : State) : Result := .next (busIdle s)

/-- The edges of one frame, one after another (R107 `EV.FRAME`). -/
def takeFalls (bits : List Bool) (s : State) : State := bits.foldl (fun s d => takeFall d s) s

end Sys2Proof.Machine
end

