-- ==== Sys2Proof/Machine/WireByte.lean ====
section
/-! DEFINITION. The meanings of the nine PS/2 bytes of spec/30_encoding.md R90 as rows of the opcode table: the transfer
of that byte over the wire, by the side that sends it (log 10). A command byte is MAIN's `T.SEND` of it (R124), a
response byte is the device's whole frame of it (R83, R107 `EV.FRAME`). -/

namespace Sys2Proof.Machine

/-- A command byte goes out: `T.SEND` of its value (R90, R124). -/
def sendCommand (b : Byte) (s : State) : Result := transportOp s fun s => .next (startSend b .op s)

/-- A response byte comes in: the eleven edges of its frame (R83, R107). -/
def receiveResponse (b : Byte) (s : State) : Result := .next (takeFalls (frameBits b) s)

/-- `CMD_RESET`. -/
def execCmdReset (s : State) : Result := sendCommand s.cfg.cmdReset s

/-- `CMD_DISABLE`. -/
def execCmdDisable (s : State) : Result := sendCommand s.cfg.cmdDisable s

/-- `CMD_ENABLE`. -/
def execCmdEnable (s : State) : Result := sendCommand s.cfg.cmdEnable s

/-- `CMD_SCALE21`. -/
def execCmdScale21 (s : State) : Result := sendCommand s.cfg.cmdScale21 s

/-- `CMD_SETRES`. -/
def execCmdSetres (s : State) : Result := sendCommand s.cfg.cmdSetres s

/-- `CMD_STATUS`. -/
def execCmdStatus (s : State) : Result := sendCommand s.cfg.cmdStatus s

/-- `RSP_BAT_OK`. -/
def execRspBatOk (s : State) : Result := receiveResponse s.cfg.rspBatOk s

/-- `RSP_ACK`. -/
def execRspAck (s : State) : Result := receiveResponse s.cfg.rspAck s

/-- `RSP_ID`. -/
def execRspId (s : State) : Result := receiveResponse s.cfg.rspId s

end Sys2Proof.Machine
end

