-- ==== Sys2Proof/Machine/Dispatch.lean ====
section
/-! DEFINITION. Every instruction's meaning, one arm per row of spec/opcode_table.json. -/

namespace Sys2Proof.Machine

def exec (i : Instr) (s : State) : Host.Outcome State Fault Refusal :=
  match i with
  | .tInit => Sys2Proof.Machine.execTInit s
  | .tEnrx e => Sys2Proof.Machine.execTEnrx e s
  | .tAvail => Sys2Proof.Machine.execTAvail s
  | .tGet => Sys2Proof.Machine.execTGet s
  | .tSend b => Sys2Proof.Machine.execTSend b s
  | .tBusy => Sys2Proof.Machine.execTBusy s
  | .evFall d => Sys2Proof.Machine.execEvFall d s
  | .evTtmr => Sys2Proof.Machine.execEvTtmr s
  | .evBidle => Sys2Proof.Machine.execEvBidle s
  | .sBoot => Sys2Proof.Machine.execSBoot s
  | .sCmd code expect => Sys2Proof.Machine.execSCmd code expect s
  | .sSetres r => Sys2Proof.Machine.execSSetres r s
  | .sDecode f0 f1 f2 => Sys2Proof.Machine.execSDecode f0 f1 f2 s
  | .sPoll => Sys2Proof.Machine.execSPoll s
  | .eInit m => Sys2Proof.Machine.execEInit m s
  | .eZero z => Sys2Proof.Machine.execEZero z s
  | .eMove dx dy btn => Sys2Proof.Machine.execEMove dx dy btn s
  | .evSync => Sys2Proof.Machine.execEvSync s
  | .evTck => Sys2Proof.Machine.execEvTck s
  | .evPulse => Sys2Proof.Machine.execEvPulse s
  | .cmdReset => Sys2Proof.Machine.execCmdReset s
  | .cmdDisable => Sys2Proof.Machine.execCmdDisable s
  | .cmdEnable => Sys2Proof.Machine.execCmdEnable s
  | .cmdScale21 => Sys2Proof.Machine.execCmdScale21 s
  | .cmdSetres => Sys2Proof.Machine.execCmdSetres s
  | .cmdStatus => Sys2Proof.Machine.execCmdStatus s
  | .rspBatOk => Sys2Proof.Machine.execRspBatOk s
  | .rspAck => Sys2Proof.Machine.execRspAck s
  | .rspId => Sys2Proof.Machine.execRspId s

end Sys2Proof.Machine
end

