-- ==== Sys2Proof/Machine/Sched.lean ====
section
/-! DEFINITION. What one step of the machine does: it takes the schedule's next entry (spec/20_memory.md R70, log 3). An
operation word is decoded, held against the agent R101 names (spec/60_exceptions.md R253) and executed; MAIN's pending
operation goes on at a `MAIN` or `WAIT` entry (R106), or when MAIN's next call stands next in the schedule (log 9). -/

namespace Sys2Proof.Machine

/-- A call by MAIN. When MAIN is still inside an operation, that operation's next step comes first, and the call stays
in the schedule; when that operation is held, there is no such execution (R283; log 9). -/
def callByMain (rest : List Item) (call : State → Result) (s : State) : Result :=
  if mainReady s then mainStep s else call { s with inputs := rest }

/-- Agent `a` presents a code. An illegal word presented by MAIN and an event word presented by another agent than its
own are refused (R253). R253 does not speak of an illegal word presented by an agent other than MAIN, nor of a host
operation or a PS/2 byte presented by an agent that is not its own: all are refused in the same way, which is the model's
choice (log 25, DESIGN CHOICE). -/
def present (a : Agent) (c : Code) (rest : List Item) (s : State) : Result :=
  match decode s.cfg c with
  | .illegal e => .refused (.illegalWord e)
  | .ok i =>
    if a ∈ agentsOf i then
      if isMainOp i then callByMain rest (exec i) s else exec i { s with inputs := rest }
    else .refused (.wrongAgent a)

/-- `WAIT`: MAIN's steps until its operation has returned, refused at a hold whose condition is false (R106). With no
pending operation there is nothing to finish, and `WAIT` changes nothing: R106 does not speak of that case, and this is
the model's choice (log 23, DESIGN CHOICE). -/
def finishPending : Nat → State → Result
  | 0, s => if s.main = .idle then .next s else .refused .waitNotReady
  | n + 1, s =>
    if s.main = .idle then .next s
    else if mainReady s then
      match mainStep s with
      | .next t => finishPending n t
      | .fault r => .fault r
      | .refused r => .refused r
    else .refused .waitNotReady

/-- How many segments an operation can run through before it returns or comes to a hold that only another agent can
end: one per poll of a reset attempt, and fewer than 16 others (log 16). -/
def waitBound (s : State) : Nat := s.cfg.bootPolls + 16

/-- The end of a finite test run: the end state is the state after the script's last line, provided MAIN has no pending
operation, and a pending one makes the script ill-formed (R285; log 24). -/
def endOfScript (s : State) : Result := if s.main = .idle then .next s else .refused .scriptPending

/-- One entry of the schedule. -/
def runItem (it : Item) (rest : List Item) (s : State) : Result :=
  match it with
  | .op a c => present a c rest s
  | .main => mainStep { s with inputs := rest }
  | .wait => finishPending (waitBound s) { s with inputs := rest }
  | .flush => callByMain rest flushOp s
  | .startup => callByMain rest startupOp s
  | .preempt => .next { s with preempt := true, inputs := rest }
  | .stop => endOfScript { s with inputs := rest }

/-- One step: the configuration check (R8, R252), then the schedule's next entry; with an empty schedule only MAIN is
left to move, and an idle MAIN changes nothing (log 3). -/
def nextStep (s : State) : Result :=
  if configOk s.cfg then
    match s.inputs with
    | [] => mainStep s
    | it :: rest => runItem it rest s
  else .fault .config

/-- The agent that presents an instruction: the first that R101 names. -/
def presenterOf (i : Instr) : Agent := (agentsOf i).headD .main

/-- A state whose next step presents this code: the code becomes the schedule's next entry, and for a host operation
MAIN is inside no other. -/
def presentNext (c : Code) (s : State) : State :=
  let a := match decode s.cfg c with
    | .ok i => presenterOf i
    | .illegal _ => .main
  { s with
    inputs := .op a c :: s.inputs
    main := if a = .main then .idle else s.main }

end Sys2Proof.Machine
end

