-- ==== Sys2Proof/Machine/Step.lean ====
section
/-! DEFINITION. The step function of the machine, and the state in which the next step runs a given instruction. -/

namespace Sys2Proof.Machine

/-- One step of the machine (R70). -/
def step (s : State) : Host.Outcome State Fault Refusal := nextStep s

/-- `s` with the instruction of the table row's bits presented next (log 3). -/
def State.withFetchWord (s : State) (nbits w : Nat) : State := presentNext (codeOfTable nbits w) s

end Sys2Proof.Machine
end

