-- ==== Sys2Proof/Safety.lean ====
section
/-! DEFINITION. What counts as a good state of the block: the invariants of spec/40_transport.md R164 and those that
spec/42_output.md, 10_state.md and 60_exceptions.md imply for the Output Emulator, the launch premise `CLEAN_START` of
spec/70_reset_and_hazards.md R284; and the runs of moves in which claims about several steps are stated. -/

namespace Sys2Proof.Machine

/-- The states in which the host may be driving DATA low (R164 (e)). -/
def Link.drivesData : Link → Bool
  | .txRequest | .txData | .txParity | .txStop => true
  | _ => false

/-- MAIN holds in phase 3 of `T.SEND`. -/
def MainPos.inPhase3 : MainPos → Bool
  | .sendDone _ => true
  | _ => false

/-- MAIN is inside a procedure of the transport or the session, which it entered only after `T.INIT` (R252). -/
def MainPos.inProcedure : MainPos → Bool
  | .sendWait _ _ | .sendDone _ | .respDelay _ | .bootPoll _ _ | .bootStatus => true
  | _ => false

/-- The invariants (a) to (e) of R164, and what makes them inductive: the timer mode goes with the link state (R263,
R160), an armed edge means a released clock (R265), MAIN is in phase 3 of `T.SEND` during a transmit (R121), and a
procedure, an armed edge and a recovery come only after `T.INIT` (R51, R252). -/
structure TransportInv (s : State) : Prop where
  errorState : s.tr.link = .error → s.tr.edgeEn = false ∧ s.tr.clkDrv = .low ∧ s.tr.tmode = .recovery
  txState : s.tr.link.isTx = true → s.tr.tmode = .watchdog ∧ s.tr.edgeEn = true
  rxBit : s.tr.link = .rxData → s.tr.bitn.toNat ≤ 7
  txBit : s.tr.link = .txData → 1 ≤ s.tr.bitn.toNat ∧ s.tr.bitn.toNat ≤ 7
  queue : s.tr.rq.length ≤ s.cfg.rqCap
  dataLow : s.tr.dataDrv = .low → s.tr.link.drivesData = true
  recoveryMode : s.tr.tmode = .recovery → s.tr.link = .error ∧ s.tr.inited = true
  watchdogMode : s.tr.tmode = .watchdog → s.tr.link.isTx = true
  armed : s.tr.edgeEn = true → s.tr.clkDrv = .rel ∧ s.tr.inited = true
  txHeld : s.tr.link.isTx = true → s.main.inPhase3 = true
  procedure : s.main.inProcedure = true → s.tr.inited = true

/-- MAIN stands before the second target write of `E.MOVE` or `E.ZERO` (R69). -/
def MainPos.midLatch : MainPos → Bool
  | .moveB _ => true
  | .zeroB _ => true
  | _ => false

/-- MAIN stands before the second target write of `E.MOVE` (R221). -/
def MainPos.midMove : MainPos → Bool
  | .moveB _ => true
  | _ => false

/-- The invariants of the Output Emulator: the enables belong to their mode (R230, R31, R47), the outputs of the other
mode are neutral (R234), opposite directions are never asserted together (R222), the zero point is well formed (R8,
R211), the latched targets are those of the counters (R215, R44) except between two target writes (R69), and every
register fits its width (R8, R42 to R46). -/
structure EmulatorInv (s : State) : Prop where
  syncMode : s.em.syncEn = true → s.em.mode = .analog ∧ s.em.inited = true
  countMode : s.em.tcntRun = true → s.em.mode = .analog ∧ s.em.inited = true
  pulseMode : s.em.pulseRun = true → s.em.mode = .joystick ∧ s.em.inited = true
  analogLines : s.em.mode = .analog →
    s.em.joyUp = .rel ∧ s.em.joyDown = .rel ∧ s.em.joyLeft = .rel ∧ s.em.joyRight = .rel ∧ s.em.joyFire = .rel
  joystickLines : s.em.mode = .joystick →
    s.em.sw0 = .rel ∧ s.em.sw1 = .rel ∧ s.em.sw2 = .rel ∧ s.em.potY = .rel ∧ s.em.potX ≠ .high
  horizontal : ¬(s.em.joyLeft = .low ∧ s.em.joyRight = .low)
  vertical : ¬(s.em.joyUp = .low ∧ s.em.joyDown = .low)
  zeroPoint : zeroWellFormed s.cfg s.em.zero = true
  targetX : s.em.inited = true → s.em.tgtX = target s.cfg s.em.zero s.em.cntX.toNat
  targetY : s.em.inited = true → s.main.midLatch = false →
    s.em.tgtY = target s.cfg s.em.zero s.em.cntY.toNat
  midMove : s.main.midMove = true → s.em.mode = .analog ∧ s.em.inited = true
  midLatch : s.main.midLatch = true → s.em.inited = true
  counters : s.em.cntX.toNat < s.cfg.cntMod ∧ s.em.cntY.toNat < s.cfg.cntMod
  widths : s.em.tgtX < 2 ^ s.cfg.tcntBits ∧ s.em.tgtY < 2 ^ s.cfg.tcntBits ∧
    s.em.tcnt < 2 ^ s.cfg.tcntBits ∧ s.em.cmpX < 2 ^ s.cfg.tcntBits ∧ s.em.cmpY < 2 ^ s.cfg.tcntBits

/-- Every output line is neutral (R210, R51). -/
def allReleased (e : Emulator) : Prop :=
  e.potX = .rel ∧ e.potY = .rel ∧ e.sw0 = .rel ∧ e.sw1 = .rel ∧ e.sw2 = .rel ∧ e.joyUp = .rel ∧
    e.joyDown = .rel ∧ e.joyLeft = .rel ∧ e.joyRight = .rel ∧ e.joyFire = .rel

/-- `CLEAN_START` (R284) in mode `m`: the state after steps 1 to 5 of R280, with what R284 lists. A fault or a refusal
would have ended the run, so none is recorded. -/
structure CleanStart (m : Mode) (s : State) : Prop where
  /-- Steps 1 and 5: `T.INIT` and `E.INIT` have run (R280, R252). -/
  initialised : s.tr.inited = true ∧ s.em.inited = true
  /-- The run started under a checked configuration, and step 4 left a well-formed zero point (R8, R211). -/
  wellFormed : configOk s.cfg = true ∧ zeroWellFormed s.cfg s.em.zero = true
  link : s.tr.link = .idle
  timer : s.tr.tmode = .off
  armed : s.tr.edgeEn = true
  lines : s.tr.clkDrv = .rel ∧ s.tr.dataDrv = .rel
  queue : s.tr.rq = []
  session : s.ses.frameIdx = 0 ∧ s.ses.ready = true
  mode : s.em.mode = m
  counters : s.em.cntX = 0 ∧ s.em.cntY = 0
  targets : s.em.tgtX = s.em.zero ∧ s.em.tgtY = s.em.zero
  outputs : allReleased s.em
  enables : s.em.syncEn = decide (m = .analog) ∧ s.em.tcntRun = false ∧ s.em.pulseRun = false
  main : s.main = .idle

/-- A move in a run: an instruction is performed, or MAIN takes a step of its pending operation. -/
inductive Move where
  | act (i : Instr)
  | main
deriving DecidableEq, Repr

/-- One move. -/
def runMove (m : Move) (s : State) : Result :=
  match m with
  | .act i => exec i s
  | .main => mainStep s

/-- The moves of a run, one after another, up to the first that gives no next state. -/
def runMoves : List Move → State → Result
  | [], s => .next s
  | m :: ms, s =>
    match runMove m s with
    | .next t => runMoves ms t
    | .fault r => .fault r
    | .refused r => .refused r

/-- Falling edges with these data levels. -/
def fallMoves (bits : List Bool) : List Move := bits.map fun d => .act (.evFall d)

/-- The device sends these bytes, each as one good frame (R83, R107 `EV.FRAME`). -/
def frameMoves (bs : List Byte) : List Move := bs.flatMap fun b => fallMoves (frameBits b)

/-- The device clocks one host-to-device transfer and acknowledges it (R107 `EV.ACKTX`). -/
def ackMoves : List Move := fallMoves (List.replicate 10 true ++ [false]) ++ [.act .evBidle]

/-- The device clocks MAIN's transfer, acknowledges it, and answers with these bytes before MAIN goes on (`ENV_RESP`,
R265); MAIN then returns from `T.SEND` and its delay ends. -/
def serveMoves (reply : List Byte) : List Move := ackMoves ++ frameMoves reply ++ [.main, .main]

/-- MAIN is inside no operation and `T.INIT` has run: what a transport or session operation needs (R252, R283). -/
def readyFor (s : State) : Prop := s.main = .idle ∧ s.tr.inited = true

/-- The state a request-to-send of `b` leaves, field by field (R124, phase 2): MAIN holds in phase 3, CLK was pulled
low, DATA pulled low and CLK released, in this order. -/
def requested (b : Byte) (c : SendCaller) (s : State) : State :=
  { s with
    tr := { s.tr with
      txb := b, edgeEn := true, clkDrv := .rel, dataDrv := .low, bitn := 0, link := .txRequest,
      tmode := .watchdog, barks := 0 }
    main := .sendDone c
    trace := .drive .clk .rel :: .drive .data .low :: .drive .clk .low :: s.trace }

/-- What the end of `Delay(T_RESP)` in `S.CMD` leaves, whoever called it: the oldest queued byte is taken, and on an
empty queue the command timeout is recorded (R177, R254). -/
def responseTaken (s : State) : State :=
  { s with
    tr.rq := s.tr.rq.tail
    trace := if s.tr.rq = [] then .cmdTimeout :: s.trace else s.trace }

/-- The state an error entry with this cause leaves, field by field (R140). -/
def errored (c : Cause) (s : State) : State :=
  { s with
    tr := { s.tr with
      link := .error, edgeEn := false, clkDrv := .low, dataDrv := .rel, tmode := .recovery, barks := 0 }
    trace := .linkError c s.tr.link :: .drive .data .rel :: .drive .clk .low :: s.trace }

/-- The newest `cap` bytes of a queue. -/
def newest (cap : Nat) (bs : List Byte) : List Byte := bs.drop (bs.length - cap)

end Sys2Proof.Machine
end

