-- ==== Sys2Proof/Certificates/Slice0/Obligations.lean ====
section
/-! DEFINITION. The statements about the block that the provers settle, one `Obligations.<Name>` each. Each docstring
names the rules of spec/ the statement rests on, and the log entry where it rests on a choice of the model. -/

open Sys2Proof Sys2Proof.Machine

/-! Power-on and initialisation -/

/-- R51, the power-on column, and R42, R282: every enable and run flag is 0, every line released, `ZERO` its
default. The values of the fields R51 calls unwritten (log 2) are not stated. -/
def Obligations.PowerOnState : Prop :=
  (∀ cfg : Config,
    let s := State.powerOn cfg
    s.cfg = cfg ∧ s.tr.clkDrv = .rel ∧ s.tr.dataDrv = .rel ∧ s.tr.edgeEn = false ∧ s.tr.tmode = .off ∧
    s.em.syncEn = false ∧ s.ses.ready = false ∧ allReleased s.em ∧ s.em.zero = cfg.zeroDefault ∧
    s.em.tcntRun = false ∧ s.em.pulseRun = false ∧ s.main = .idle) ∧
  State.reset.em.zero = 320

/-- R51, the column after `T.INIT` and `E.INIT m`, from every power-on with a well-formed configuration. -/
def Obligations.InitialisationSequence : Prop :=
  ∀ (cfg : Config) (m : Mode), configOk cfg = true →
    ∃ t, runMoves [.act .tInit, .act (.eInit m)] (State.powerOn cfg) = .next t ∧
      t.tr.link = .idle ∧ t.tr.rq = [] ∧ t.em.syncEn = decide (m = .analog) ∧ t.tr.edgeEn = false ∧
      t.tr.clkDrv = .rel ∧ t.tr.dataDrv = .rel ∧ t.tr.rxsh = 0 ∧ t.tr.txb = 0 ∧ t.tr.bitn = 0 ∧
      t.tr.tmode = .off ∧ t.tr.barks = 0 ∧ t.ses.ready = false ∧ t.em.mode = m ∧ allReleased t.em ∧
      t.em.zero = cfg.zeroDefault ∧ t.em.cntX = 0 ∧ t.em.cntY = 0 ∧ t.em.tgtX = cfg.zeroDefault ∧
      t.em.tgtY = cfg.zeroDefault ∧ t.em.tcnt = 0 ∧ t.em.cmpX = 0 ∧ t.em.cmpY = 0 ∧
      t.em.tcntRun = false ∧ t.em.pulseRun = false

/-- R51: "no event has any effect before initialisation"; R126, R161, R230 to R232. In every state whose enables and
run flags are 0 and in which `T.INIT` has not run, an event leaves everything as it is. That `EV.BIDLE` then asks
whether `T.INIT` has run, not what the unwritten `LINK` holds, is the model's choice (log 14). -/
def Obligations.EventsBeforeInitialisation : Prop :=
  ∀ (s : State) (d : Bool), s.tr.inited = false → s.tr.edgeEn = false → s.tr.tmode = .off →
    s.em.syncEn = false → s.em.tcntRun = false → s.em.pulseRun = false →
    ∀ i ∈ [Instr.evFall d, .evTtmr, .evBidle, .evSync, .evTck, .evPulse], exec i s = .next s

/-- R252, `F_UNINIT`, and its place in the check order (R261): with MAIN free, an operation that reads unwritten
state faults before any check of its own. -/
def Obligations.UninitialisedOperationsFault : Prop :=
  (∀ (s : State) (e x : Bool) (b : Byte), s.main = .idle → s.tr.inited = false →
    ∀ i ∈ [Instr.tEnrx e, .tAvail, .tGet, .tSend b, .tBusy, .sBoot, .sCmd b x, .sSetres b, .sPoll],
      exec i s = .fault .uninit) ∧
  (∀ s : State, s.main = .idle → s.tr.inited = true → s.ses.ready = false → exec .sPoll s = .fault .uninit) ∧
  (∀ (s : State) (dx dy : BitVec 9) (btn : BitVec 3), s.main = .idle → s.em.inited = false →
    exec (.eMove dx dy btn) s = .fault .uninit)

/-- R252 and R255: an instruction faults only where the fault table says. The last case of `F_UNINIT` is the
Movement Router's `E.MOVE` inside `S.POLL` (log 15); the PS/2 command bytes are `T.SEND`s (log 10). -/
def Obligations.FaultsOnlyWhereTheTableSays : Prop :=
  ∀ (i : Instr) (s : State) (f : Fault), exec i s = .fault f → s.main = .idle ∧ isMainOp i = true ∧
    match f with
    | .getEmpty => i = .tGet ∧ s.tr.rq = []
    | .uninit =>
      (s.tr.inited = false ∧ i ≠ .tInit ∧ (∀ f0 f1 f2, i ≠ .sDecode f0 f1 f2) ∧ (∀ m, i ≠ .eInit m) ∧
        (∀ z, i ≠ .eZero z) ∧ (∀ dx dy btn, i ≠ .eMove dx dy btn)) ∨
      (i = .sPoll ∧ s.ses.ready = false) ∨
      (s.em.inited = false ∧
        ((∃ dx dy btn, i = .eMove dx dy btn) ∨ (i = .sPoll ∧ s.ses.frameIdx = 2 ∧ s.tr.rq ≠ [])))
    | .config => ∃ z : BitVec 16, i = .eZero z ∧ zeroWellFormed s.cfg z.toNat = false
    | .badRes => ∃ r : Byte, i = .sSetres r ∧ 3 < r.toNat

/-- R70, R255, R271: an event is one atomic step in every state; it never faults, is never refused, and leaves
MAIN's position, the session and the configuration alone. -/
def Obligations.EventsAlwaysComplete : Prop :=
  ∀ (i : Instr) (s : State), isMainOp i = false →
    ∃ t, exec i s = .next t ∧ t.cfg = s.cfg ∧ t.main = s.main ∧ t.ses = s.ses ∧ t.ret = s.ret ∧
      t.preempt = s.preempt ∧ t.inputs = s.inputs

/-- R283: while MAIN is held in one operation it calls no other. The refusal by name is the model's (log 9). -/
def Obligations.HostOperationsNeedFreeMain : Prop :=
  ∀ (i : Instr) (s : State), isMainOp i = true → s.main ≠ .idle → exec i s = .refused .mainBusy

/-! Transport Engine -/

/-- R120: `T.INIT`, its encoding, what it writes, its status outputs, and that nothing else changes. -/
def Obligations.TInitResult : Prop :=
  (∀ cfg, decode cfg (.word 0x00000001) = .ok .tInit) ∧
  ∀ s : State, s.main = .idle →
    ∃ t, exec .tInit s = .next t ∧
      t = { s with
        tr := { clkDrv := .rel, dataDrv := .rel, link := .idle, rxsh := 0, bitn := 0, txb := 0,
                edgeEn := false, tmode := .off, barks := 0, rq := [], inited := true }
        em.syncEn := false
        main := .idle
        ret := .unit
        trace := .drive .data .rel :: .drive .clk .rel :: s.trace } ∧
      busy t.tr = false ∧ avail t.tr = false ∧
      ∃ u, exec .tInit t = .next u ∧ u.tr = t.tr ∧ u.em = t.em ∧ u.ses = t.ses

/-- R121: `T.ENRX e`, its encodings, both arguments, and that nothing else changes. -/
def Obligations.EnableReceiveResult : Prop :=
  (∀ cfg, decode cfg (.word 0x00000002) = .ok (.tEnrx false) ∧
    decode cfg (.word 0x00000102) = .ok (.tEnrx true)) ∧
  ∀ s : State, readyFor s →
    exec (.tEnrx true) s = .next { s with
      tr := { s.tr with link := .idle, bitn := 0, edgeEn := true, clkDrv := .rel, dataDrv := .rel,
                        tmode := .off, barks := 0 }
      main := .idle
      ret := .unit
      trace := .drive .data .rel :: .drive .clk .rel :: s.trace } ∧
    exec (.tEnrx false) s = .next { s with
      tr := { s.tr with edgeEn := false, clkDrv := .low }
      main := .idle
      ret := .unit
      trace := .drive .clk .low :: s.trace }

/-- R122, R125, R32: `T.AVAIL` and `T.BUSY` return the computed status and change nothing. -/
def Obligations.StatusReadsChangeNothing : Prop :=
  (∀ cfg, decode cfg (.word 0x00000003) = .ok .tAvail ∧ decode cfg (.word 0x00000006) = .ok .tBusy) ∧
  ∀ s : State, readyFor s →
    exec .tAvail s = .next { s with main := .idle, ret := .bit (decide (0 < s.tr.rq.length)) } ∧
    exec .tBusy s = .next { s with main := .idle, ret := .bit (decide (s.tr.link ≠ .idle)) }

/-- R123, R62: `T.GET` takes the oldest byte, and faults on the empty queue. -/
def Obligations.GetTakesOldestByte : Prop :=
  (∀ cfg, decode cfg (.word 0x00000004) = .ok .tGet) ∧
  (∀ (s : State) (b : Byte) (rest : List Byte), readyFor s → s.tr.rq = b :: rest →
    exec .tGet s = .next { s with tr.rq := rest, main := .idle, ret := .byte b }) ∧
  ∀ s : State, readyFor s → s.tr.rq = [] → exec .tGet s = .fault .getEmpty

/-- R124, its encoding included: `T.SEND b` requests to send at once from `Idle`, whether or not reception was
enabled, and otherwise holds; the hold of phase 1 ends in the request-to-send, and the hold of phase 3, for every
caller of `T.SEND`, leaves everything as it is while `LINK` is not `Idle`; when it is, the firmware's call returns. The
returns to the other callers are in `CommandProcedure` and `BootResetLoop`. -/
def Obligations.SendHoldsAndRequests : Prop :=
  (∀ (cfg : Config) (b : Byte), decode cfg (.word (0#16 ++ b ++ 0x05#8)) = .ok (.tSend b)) ∧
  (∀ (s : State) (b : Byte), readyFor s →
    (s.tr.link = .idle → exec (.tSend b) s = .next (requested b .op s)) ∧
    (s.tr.link ≠ .idle → exec (.tSend b) s = .next { s with main := .sendWait b .op })) ∧
  (∀ (s : State) (b : Byte) (c : SendCaller), s.main = .sendWait b c →
    (s.tr.link = .idle → mainStep s = .next (requested b c s)) ∧
    (s.tr.link ≠ .idle → mainStep s = .next s)) ∧
  (∀ (s : State) (c : SendCaller), s.main = .sendDone c → s.tr.link ≠ .idle → mainStep s = .next s) ∧
  ∀ s : State, s.main = .sendDone .op → s.tr.link = .idle →
    mainStep s = .next { s with main := .idle, ret := .unit }

/-- R126, R155, R156: a falling edge has no effect while `EDGE_EN = 0`, in `TxEnd` and in `Error`. -/
def Obligations.EdgesWithoutEffect : Prop :=
  ∀ (s : State) (d : Bool), s.tr.edgeEn = false ∨ s.tr.link = .txEnd ∨ s.tr.link = .error →
    exec (.evFall d) s = .next s

/-- R130: the start bit. -/
def Obligations.StartBitBeginsFrame : Prop :=
  ∀ s : State, s.tr.edgeEn = true → s.tr.link = .idle →
    (exec (.evFall false) s = .next { s with tr := { s.tr with rxsh := 0, bitn := 0, link := .rxData } }) ∧
    exec (.evFall true) s = .next (errored .start s)

/-- R131: a data bit goes into bit `BITN` of `RXSH` and no other; the eighth one leads to `RxParity`. -/
def Obligations.DataBitShiftsIn : Prop :=
  ∀ (s : State) (d : Bool), s.tr.edgeEn = true → s.tr.link = .rxData → s.tr.bitn.toNat ≤ 7 →
    ∃ v : Byte, (∀ k < 8, v.getLsbD k = if k = s.tr.bitn.toNat then d else s.tr.rxsh.getLsbD k) ∧
      exec (.evFall d) s = .next { s with
        tr := { s.tr with
          rxsh := v, bitn := s.tr.bitn + 1,
          link := if s.tr.bitn.toNat = 7 then .rxParity else .rxData } } ∧
      (s.tr.bitn + 1).toNat = s.tr.bitn.toNat + 1

/-- R132, R133: the parity bit and the stop bit, good and bad. -/
def Obligations.ParityAndStopBits : Prop :=
  (∀ (s : State) (d : Bool), s.tr.edgeEn = true → s.tr.link = .rxParity →
    ((popcount s.tr.rxsh + d.toNat) % 2 = 1 →
      exec (.evFall d) s = .next { s with tr := { s.tr with link := .rxStop } }) ∧
    ((popcount s.tr.rxsh + d.toNat) % 2 ≠ 1 → exec (.evFall d) s = .next (errored .parity s))) ∧
  ∀ s : State, s.tr.edgeEn = true → s.tr.link = .rxStop →
    exec (.evFall true) s = .next { s with
      tr := { s.tr with
        rq := (if s.tr.rq.length = s.cfg.rqCap then s.tr.rq.tail else s.tr.rq) ++ [s.tr.rxsh],
        bitn := 0, link := .idle } } ∧
    exec (.evFall false) s = .next (errored .stop s)

/-- R81: the parity bit makes the number of ones odd, and a received frame passes exactly with that bit. -/
def Obligations.OddParityFormula : Prop :=
  ∀ (d : Byte) (p : Bool), (oddPar d).toNat = 1 - popcount d % 2 ∧
    (popcount d + (oddPar d).toNat) % 2 = 1 ∧ (parityOk d p = true ↔ p = oddPar d)

/-- R141: recovery; and it is the only exit from `Error` other than `T.INIT` and `T.ENRX 1`, whoever steps. -/
def Obligations.RecoveryReturnsToIdle : Prop :=
  (∀ cfg, decode cfg (.word 0x00000011) = .ok .evTtmr) ∧
  (∀ s : State, s.tr.tmode = .recovery →
    exec .evTtmr s = .next { s with
      tr := { s.tr with link := .idle, bitn := 0, tmode := .off, clkDrv := .rel, edgeEn := true }
      trace := .drive .clk .rel :: s.trace }) ∧
  (∀ (i : Instr) (s t : State), s.tr.link = .error → exec i s = .next t →
    t.tr.link = .error ∨ i = .tInit ∨ i = .tEnrx true ∨ (i = .evTtmr ∧ s.tr.tmode = .recovery)) ∧
  ∀ s t : State, s.tr.link = .error → mainStep s = .next t → t.tr.link = .error

/-- R150 to R153: what the host drives on each edge of a transmit, whatever the level of DATA at that edge. -/
def Obligations.TransmitEdgesDriveData : Prop :=
  ∀ (s : State) (d : Bool), s.tr.edgeEn = true →
    (s.tr.link = .txRequest → exec (.evFall d) s = .next { s with
      tr := { s.tr with dataDrv := if s.tr.txb.getLsbD 0 then .rel else .low, bitn := 1, link := .txData }
      trace := .drive .data (if s.tr.txb.getLsbD 0 then .rel else .low) :: s.trace }) ∧
    (s.tr.link = .txData → 1 ≤ s.tr.bitn.toNat → s.tr.bitn.toNat ≤ 7 → exec (.evFall d) s = .next { s with
      tr := { s.tr with
        dataDrv := if s.tr.txb.getLsbD s.tr.bitn.toNat then .rel else .low, bitn := s.tr.bitn + 1,
        link := if s.tr.bitn.toNat = 7 then .txParity else .txData }
      trace := .drive .data (if s.tr.txb.getLsbD s.tr.bitn.toNat then .rel else .low) :: s.trace }) ∧
    (s.tr.link = .txParity → exec (.evFall d) s = .next { s with
      tr := { s.tr with dataDrv := if oddPar s.tr.txb then .rel else .low, link := .txStop }
      trace := .drive .data (if oddPar s.tr.txb then .rel else .low) :: s.trace }) ∧
    (s.tr.link = .txStop → exec (.evFall d) s = .next { s with
      tr := { s.tr with dataDrv := .rel, link := .txAck }
      trace := .drive .data .rel :: s.trace })

/-- R154, R157: the acknowledge bit, and the end of the transmit when both lines are high. A `LINK` other than its
value at power-on means that `T.INIT` has run (`TransportInv`, kept by every step). -/
def Obligations.AcknowledgeAndBusIdle : Prop :=
  (∀ cfg, decode cfg (.word 0x00000012) = .ok .evBidle) ∧
  (∀ s : State, s.tr.edgeEn = true → s.tr.link = .txAck →
    exec (.evFall false) s = .next { s with tr := { s.tr with link := .txEnd } } ∧
    exec (.evFall true) s = .next (errored .ack s)) ∧
  (∀ s : State, s.tr.inited = true → s.tr.link = .txEnd →
    exec .evBidle s = .next { s with
      tr := { s.tr with link := .idle, bitn := 0, tmode := .off, barks := 0 } }) ∧
  ∀ s : State, s.tr.link ≠ .txEnd → exec .evBidle s = .next s

/-- R160, R161: one bark of the watchdog, and the timer that is not armed. -/
def Obligations.WatchdogTick : Prop :=
  (∀ s : State, s.tr.tmode = .watchdog →
    (s.tr.link.isTx = true → s.tr.barks + 1 < s.cfg.barkLimit →
      exec .evTtmr s = .next { s with tr := { s.tr with barks := s.tr.barks + 1 } }) ∧
    (s.tr.link.isTx = true → s.cfg.barkLimit ≤ s.tr.barks + 1 →
      exec .evTtmr s = .next (errored .watchdog s)) ∧
    (s.tr.link.isTx = false → exec .evTtmr s = .next { s with tr := { s.tr with tmode := .off } })) ∧
  ∀ s : State, s.tr.tmode = .off → exec .evTtmr s = .next s

/-- R83, first half: a good frame of `b`, received from `Idle`, pushes exactly `b` and returns to `Idle`. -/
def Obligations.ReceivedFrameIsQueued : Prop :=
  ∀ (s : State) (b : Byte), s.tr.edgeEn = true → s.tr.link = .idle →
    runMoves (frameMoves [b]) s = .next { s with
      tr := { s.tr with
        rxsh := b, bitn := 0,
        rq := (if s.tr.rq.length = s.cfg.rqCap then s.tr.rq.tail else s.tr.rq) ++ [b] } }

/-- R83, second half, and R82: `T.SEND b` drives `Frame(b)[0]` in the request-to-send and `Frame(b)[k]` after the
k-th edge, whatever the device puts on DATA; the acknowledge and both lines high end the transmit and release MAIN.
-/
def Obligations.TransmitDrivesTheFrame : Prop :=
  ∀ (s : State) (b : Byte), readyFor s → s.tr.link = .idle →
    (∀ ds : List Bool, ds.length ≤ 10 →
      ∃ t, runMoves (.act (.tSend b) :: fallMoves ds) s = .next t ∧
        t.tr.dataDrv = (if (frameBits b).getD ds.length true then .rel else .low)) ∧
    ∃ t, runMoves (.act (.tSend b) :: ackMoves ++ [.main]) s = .next t ∧ t.tr.link = .idle ∧
      t.tr.tmode = .off ∧ t.tr.edgeEn = true ∧ t.tr.clkDrv = .rel ∧ t.tr.dataDrv = .rel ∧
      t.tr.rq = s.tr.rq ∧ t.main = .idle ∧ t.ret = .unit

/-- R132, R133, R140, R141, R126 (the document's error injection): a frame with a bad parity or stop bit enters
`Error` with its cause, later edges are lost, and the recovery tick returns to `Idle` with reception armed and the
queue unaffected. -/
def Obligations.BadFrameIsDroppedAndRecovered : Prop :=
  ∀ (s : State) (b : Byte) (late : List Bool), s.tr.edgeEn = true → s.tr.link = .idle →
    ∀ p ∈ [((frameBits b).take 9 ++ [!oddPar b], Cause.parity, Link.rxParity),
           ((frameBits b).take 10 ++ [false], Cause.stop, Link.rxStop)],
      ∃ t u, runMoves (fallMoves (p.1 ++ late)) s = .next t ∧ t.tr.link = .error ∧ t.tr.edgeEn = false ∧
        t.tr.clkDrv = .low ∧ t.tr.rq = s.tr.rq ∧ t.trace.head? = some (.linkError p.2.1 p.2.2) ∧
        exec .evTtmr t = .next u ∧ u.tr.link = .idle ∧ u.tr.edgeEn = true ∧ u.tr.clkDrv = .rel ∧
        u.tr.tmode = .off ∧ u.tr.rq = s.tr.rq

/-- R61, R64, R294: however many frames arrive unread, the queue holds the newest `RQ_CAP` bytes, oldest first. -/
def Obligations.QueueKeepsNewestBytes : Prop :=
  ∀ (s : State) (bs : List Byte), s.tr.edgeEn = true → s.tr.link = .idle → 1 ≤ s.cfg.rqCap →
    s.tr.rq.length ≤ s.cfg.rqCap →
    ∃ t, runMoves (frameMoves bs) s = .next t ∧ t.tr.rq = newest s.cfg.rqCap (s.tr.rq ++ bs) ∧
      t.tr.link = .idle ∧ t.tr.edgeEn = true

/-- R67: bytes pop in the order they were pushed. -/
def Obligations.GetsReturnInOrder : Prop :=
  ∀ (s : State) (older : List Byte) (b : Byte) (newer : List Byte), readyFor s →
    s.tr.rq = older ++ b :: newer →
    runMoves (List.replicate (older.length + 1) (.act .tGet)) s =
      .next { s with tr.rq := newer, main := .idle, ret := .byte b }

/-- R160, R164 (b): a transmit that the device never clocks ends in `Error` on exactly the `BARK_LIMIT`-th tick. -/
def Obligations.WatchdogBoundsTheTransmit : Prop :=
  ∀ (s : State) (b : Byte) (n : Nat), readyFor s → s.tr.link = .idle → 1 ≤ s.cfg.barkLimit →
    (n < s.cfg.barkLimit →
      ∃ t, runMoves (.act (.tSend b) :: List.replicate n (.act .evTtmr)) s = .next t ∧
        t.tr.link = .txRequest ∧ t.tr.barks = n) ∧
    ∃ t, runMoves (.act (.tSend b) :: List.replicate s.cfg.barkLimit (.act .evTtmr)) s = .next t ∧
      t.tr.link = .error ∧ t.trace.head? = some (.linkError .watchdog .txRequest)

/-- R164: the invariants (a) to (e) of the transport, with what makes them inductive, are kept by every step. -/
def Obligations.TransportStepKeepsItsInvariants : Prop :=
  ∀ s t : State, TransportInv s → step s = .next t → TransportInv t

/-- The invariants of R164 hold at power-on, under every configuration. R51 calls `LINK`, `BITN` and `RQ` unwritten
there, so that they hold rests on the values the model names (log 2, DESIGN CHOICE): `Idle`, 0 and empty. -/
def Obligations.TransportPowerOnMeetsInvariants : Prop :=
  ∀ cfg : Config, TransportInv (State.powerOn cfg)

/-! Mouse Session -/

/-- R185, its encoding included, R85, R86, R87: `S.DECODE` is the byte, less 256 where the sign bit is set, which is
the sign extension of the sign bit above the byte, in −256..255; the mask is bits 0 to 2; bits 3, 6 and 7 of the
status byte change neither delta nor mask; nothing but the return value changes. -/
def Obligations.DecodeMovementFrame : Prop :=
  (∀ (cfg : Config) (f0 f1 f2 : Byte),
    decode cfg (.word (f2 ++ f1 ++ f0 ++ 0x23#8)) = .ok (.sDecode f0 f1 f2)) ∧
  ∀ (s : State) (f0 f1 f2 : Byte), s.main = .idle →
    ∃ (dx dy : Int) (btn : BitVec 3),
      exec (.sDecode f0 f1 f2) s =
        .next { s with main := .idle, ret := .decoded dx dy btn (f0.getLsbD 6) (f0.getLsbD 7) } ∧
      dx = (if f0.getLsbD 4 then (f1.toNat : Int) - 256 else f1.toNat) ∧
      dy = (if f0.getLsbD 5 then (f2.toNat : Int) - 256 else f2.toNat) ∧
      dx = (BitVec.ofBool (f0.getLsbD 4) ++ f1 : BitVec 9).toInt ∧
      dy = (BitVec.ofBool (f0.getLsbD 5) ++ f2 : BitVec 9).toInt ∧
      (-256 ≤ dx ∧ dx ≤ 255) ∧ (-256 ≤ dy ∧ dy ≤ 255) ∧
      (∀ k < 3, btn.getLsbD k = f0.getLsbD k) ∧
      ∀ g0 : Byte, (∀ k ∈ [0, 1, 2, 4, 5], g0.getLsbD k = f0.getLsbD k) →
        exec (.sDecode g0 f1 f2) s =
          .next { s with main := .idle, ret := .decoded dx dy btn (g0.getLsbD 6) (g0.getLsbD 7) }

/-- R177, its encoding included, R92, R254: `S.CMD` sends its code; with `expect = 0` it returns `NONE` as soon as
the send has returned; with `expect = 1` it delays, whoever called it, then returns to the firmware the
oldest queued byte unchecked, or `NONE` with the label `CMD_TIMEOUT`. -/
def Obligations.CommandProcedure : Prop :=
  (∀ (cfg : Config) (code : Byte) (x : Bool),
    decode cfg (.word (0#15 ++ BitVec.ofBool x ++ code ++ 0x21#8)) = .ok (.sCmd code x)) ∧
  (∀ (s : State) (code : Byte) (x : Bool), readyFor s →
    (s.tr.link = .idle → exec (.sCmd code x) s = .next (requested code (.cmd x .op) s)) ∧
    (s.tr.link ≠ .idle → exec (.sCmd code x) s = .next { s with main := .sendWait code (.cmd x .op) })) ∧
  (∀ s : State, s.tr.link = .idle →
    (s.main = .sendDone (.cmd false .op) →
      mainStep s = .next { s with main := .idle, ret := .resp 0x100 }) ∧
    ∀ k : CmdCaller, s.main = .sendDone (.cmd true k) → mainStep s = .next { s with main := .respDelay k }) ∧
  ∀ s : State, s.main = .respDelay .op →
    (s.tr.rq = [] →
      mainStep s = .next { s with main := .idle, ret := .resp 0x100, trace := .cmdTimeout :: s.trace }) ∧
    ∀ (b : Byte) (rest : List Byte), s.tr.rq = b :: rest →
      mainStep s = .next { s with tr.rq := rest, main := .idle, ret := .resp (b.zeroExtend 9) }

/-- R178: with a device that clocks each transfer and answers one byte to it, whatever the bytes, `S.SETRES r` sends
`CMD_DISABLE`, `CMD_SETRES`, r, `CMD_ENABLE` in that order and returns with `FRAME_IDX = 0`; r > 3 faults. -/
def Obligations.SetResolutionSendsItsSequence : Prop :=
  (∀ (s : State) (r : Byte), readyFor s → 3 < r.toNat → exec (.sSetres r) s = .fault .badRes) ∧
  (∀ (s : State) (r : Byte), readyFor s → r.toNat ≤ 3 →
    (s.tr.link = .idle →
      exec (.sSetres r) s = .next (requested s.cfg.cmdDisable (.cmd true (.setRes .disable r .firmware)) s)) ∧
    (s.tr.link ≠ .idle →
      exec (.sSetres r) s = .next { s with
        main := .sendWait s.cfg.cmdDisable (.cmd true (.setRes .disable r .firmware)) })) ∧
  ∀ (s : State) (r a1 a2 a3 a4 : Byte), readyFor s → r.toNat ≤ 3 → s.tr.link = .idle → s.tr.rq = [] →
    1 ≤ s.cfg.rqCap →
    ∃ t1 t2 t3 t4 t5,
      exec (.sSetres r) s = .next t1 ∧ t1.tr.link = .txRequest ∧ t1.tr.txb = s.cfg.cmdDisable ∧
      runMoves (serveMoves [a1] ++ [.main]) t1 = .next t2 ∧ t2.tr.link = .txRequest ∧
      t2.tr.txb = s.cfg.cmdSetres ∧
      runMoves (serveMoves [a2] ++ [.main]) t2 = .next t3 ∧ t3.tr.link = .txRequest ∧ t3.tr.txb = r ∧
      runMoves (serveMoves [a3] ++ [.main]) t3 = .next t4 ∧ t4.tr.link = .txRequest ∧
      t4.tr.txb = s.cfg.cmdEnable ∧
      runMoves (serveMoves [a4]) t4 = .next t5 ∧ t5.main = .idle ∧ t5.ret = .unit ∧ t5.tr.rq = [] ∧
      t5.ses.frameIdx = 0 ∧ t5.ses.ready = s.ses.ready ∧ t5.em = s.em

/-- R175, step by step. The reset loop: `S.BOOT` sends `CMD_RESET`; each poll discards the queued bytes up to a success
code; the first success code ends the loop, leaving the bytes behind it, and after `BOOT_POLLS` polls without one (at
once if `BOOT_POLLS = 0`) the whole reset sequence is retried with the label `BOOT_RETRY` (R254). Then the commands: each
`S.CMD`, whatever it answered, goes on to the next, the one of `CMD_DISABLE` flushing the queue. The status byte gives
the mask, none gives mask 0; the queue is flushed and `CMD_ENABLE` sent; the mask is returned. How each send and each
`S.CMD` in between runs is in `SendHoldsAndRequests` and `CommandProcedure`. -/
def Obligations.BootResetLoop : Prop :=
  (∀ cfg, decode cfg (.word 0x00000020) = .ok .sBoot) ∧
  (∀ s : State, readyFor s →
    (s.tr.link = .idle → exec .sBoot s = .next (requested s.cfg.cmdReset (.bootReset 1) s)) ∧
    (s.tr.link ≠ .idle → exec .sBoot s = .next { s with main := .sendWait s.cfg.cmdReset (.bootReset 1) })) ∧
  (∀ (s : State) (n : Nat), s.main = .sendDone (.bootReset n) → s.tr.link = .idle →
    (s.cfg.bootPolls ≠ 0 → mainStep s = .next { s with main := .bootPoll n 0 }) ∧
    (s.cfg.bootPolls = 0 → mainStep s = .next { s with
      main := .sendWait s.cfg.cmdReset (.bootReset (n + 1)), trace := .bootRetry :: s.trace })) ∧
  (∀ (s : State) (n p : Nat) (junk rest : List Byte), s.main = .bootPoll n p →
    s.tr.rq = junk ++ s.cfg.rspBatOk :: rest → s.cfg.rspBatOk ∉ junk →
    mainStep s = .next { s with
      tr.rq := rest, main := .sendWait s.cfg.cmdDisable (.cmd true (.boot .disable)) }) ∧
  (∀ (s : State) (n p : Nat), s.main = .bootPoll n p → s.cfg.rspBatOk ∉ s.tr.rq →
    (p + 1 < s.cfg.bootPolls → mainStep s = .next { s with tr.rq := [], main := .bootPoll n (p + 1) }) ∧
    (s.cfg.bootPolls ≤ p + 1 → mainStep s = .next { s with
      tr.rq := [], main := .sendWait s.cfg.cmdReset (.bootReset (n + 1)), trace := .bootRetry :: s.trace })) ∧
  (∀ s : State,
    (s.main = .respDelay (.boot .disable) → mainStep s = .next { responseTaken s with
      tr.rq := [], main := .sendWait s.cfg.cmdScale21 (.cmd true (.boot .scale)) }) ∧
    (s.main = .respDelay (.boot .scale) → mainStep s = .next { responseTaken s with
      main := .sendWait s.cfg.cmdSetres (.cmd true (.boot .setres)) }) ∧
    (s.main = .respDelay (.boot .setres) → mainStep s = .next { responseTaken s with
      main := .sendWait (s.cfg.defaultRes.zeroExtend 8) (.cmd true (.boot .resByte)) }) ∧
    (s.main = .respDelay (.boot .resByte) → mainStep s = .next { responseTaken s with
      main := .sendWait s.cfg.cmdStatus (.cmd true (.boot .status)) }) ∧
    (s.main = .respDelay (.boot .status) → mainStep s = .next { responseTaken s with main := .bootStatus })) ∧
  (∀ s : State, s.main = .bootStatus →
    (s.tr.rq = [] → mainStep s = .next { s with
      main := .sendWait s.cfg.cmdEnable (.cmd true (.boot (.enable 0))) }) ∧
    ∀ (v : Byte) (rest : List Byte), s.tr.rq = v :: rest → mainStep s = .next { s with
      tr.rq := [], main := .sendWait s.cfg.cmdEnable (.cmd true (.boot (.enable (v.extractLsb' 0 3)))) }) ∧
  ∀ (s : State) (mask : BitVec 3), s.main = .respDelay (.boot (.enable mask)) →
    mainStep s = .next { responseTaken s with
      ses.frameIdx := 0, ses.ready := true, main := .idle, ret := .mask mask }

/-- R175, R89, R280, R284 (the document's boot scenario): after `T.INIT` and `T.ENRX 1` from power-on, with a device
that answers the reset with the success code and every command with an acknowledge, and the status request with the
acknowledge, a status byte `v` and further bytes, `S.BOOT` returns `v[2:0]` with `CMD_ENABLE` the last byte sent;
`E.INIT m` then gives `CLEAN_START`. It is one run; the steps of `S.BOOT` in every state, `BOOT_POLLS = 0` (under which
no poll sees the success code) among them, are in `BootResetLoop`. -/
def Obligations.BootHandshakeReturnsTheMask : Prop :=
  ∀ (cfg : Config) (m : Mode) (v : Byte) (more : List Byte), configOk cfg = true → 1 ≤ cfg.bootPolls →
    more.length + 2 ≤ cfg.rqCap →
    ∃ t u,
      runMoves ([.act .tInit, .act (.tEnrx true), .act .sBoot] ++
        serveMoves [cfg.rspBatOk] ++
        [.main] ++ serveMoves [cfg.rspAck] ++
        [.main] ++ serveMoves [cfg.rspAck] ++
        [.main] ++ serveMoves [cfg.rspAck] ++
        [.main] ++ serveMoves [cfg.rspAck] ++
        [.main] ++ serveMoves (cfg.rspAck :: v :: more) ++
        [.main, .main] ++ serveMoves [cfg.rspAck]) (State.powerOn cfg) = .next t ∧
      t.ret = .mask (v.extractLsb' 0 3) ∧ t.main = .idle ∧ t.tr.rq = [] ∧ t.ses.ready = true ∧
      t.ses.frameIdx = 0 ∧ t.tr.txb = cfg.cmdEnable ∧
      exec (.eInit m) t = .next u ∧ CleanStart m u

/-- R181, R182, R186: `S.POLL` faults before the first `S.BOOT` has returned; on an empty queue it does nothing; a
byte is stored at `FRAME_IDX`; the third byte makes the same state as `E.MOVE` of the decoded frame; under `RESYNC =
BIT3` a first byte with bit 3 clear is discarded. -/
def Obligations.PollAssemblesFrames : Prop :=
  (∀ cfg, decode cfg (.word 0x00000024) = .ok .sPoll) ∧
  (∀ s : State, readyFor s → s.ses.ready = false → exec .sPoll s = .fault .uninit) ∧
  (∀ s : State, readyFor s → s.ses.ready = true → s.tr.rq = [] →
    exec .sPoll s = .next { s with main := .idle, ret := .unit }) ∧
  ∀ (s : State) (b : Byte) (rest : List Byte), readyFor s → s.ses.ready = true → s.tr.rq = b :: rest →
    (s.ses.frameIdx = 0 → s.cfg.resync = .bit3 → b.getLsbD 3 = false →
      exec .sPoll s = .next { s with tr.rq := rest, main := .idle, ret := .unit }) ∧
    (s.ses.frameIdx = 0 → (s.cfg.resync = .none ∨ b.getLsbD 3 = true) →
      exec .sPoll s = .next { s with
        tr.rq := rest, ses := { s.ses with frame0 := b, frameIdx := 1 }, main := .idle, ret := .unit }) ∧
    (s.ses.frameIdx = 1 →
      exec .sPoll s = .next { s with
        tr.rq := rest, ses := { s.ses with frame1 := b, frameIdx := 2 }, main := .idle, ret := .unit }) ∧
    (s.ses.frameIdx = 2 →
      exec .sPoll s = exec
        (.eMove (BitVec.ofBool (s.ses.frame0.getLsbD 4) ++ s.ses.frame1)
          (BitVec.ofBool (s.ses.frame0.getLsbD 5) ++ b) (s.ses.frame0.extractLsb' 0 3))
        { s with tr.rq := rest, ses := { s.ses with frame2 := b, frameIdx := 0 } })

/-- R281, R280: the startup collaborator looks up the mask `S.BOOT` returned in `CONFIG` and makes its calls in
order, `S.SETRES r` first if r is given, then `E.ZERO z` if z is given, then `E.INIT m` (log 17). `a` is what is left to
call after `S.SETRES`: each of its `S.CMD`s keeps `a`, whatever it answered, and its return goes on to `a` (R178; the
sends in between are in `SendHoldsAndRequests` and `CommandProcedure`). Where other agents will step between the target
writes of `E.ZERO` (R69, log 8), the second write hands over to `E.INIT`. -/
def Obligations.StartupMakesItsCallsInOrder : Prop :=
  (∀ (s : State) (mk : BitVec 3) (c : StartChoice), readyFor s → s.ret = .mask mk →
    s.cfg.startup[mk.toFin] = c → c.res = none →
    (c.zero = none → startupOp s = .next { s with main := .startup (.startInit c.mode) }) ∧
    ∀ z, c.zero = some z → startupOp s = .next { s with main := .startup (.startZero z c.mode) }) ∧
  (∀ (s : State) (mk : BitVec 3) (c : StartChoice) (r : Byte), readyFor s → s.ret = .mask mk →
    s.cfg.startup[mk.toFin] = c → c.res = some r →
    (3 < r.toNat → startupOp s = .fault .badRes) ∧
    ∀ a : After, (a = match c.zero with
        | some z => .startZero z c.mode
        | none => .startInit c.mode) → r.toNat ≤ 3 →
      (s.tr.link = .idle →
        startupOp s = .next (requested s.cfg.cmdDisable (.cmd true (.setRes .disable r a)) s)) ∧
      (s.tr.link ≠ .idle →
        startupOp s = .next { s with main := .sendWait s.cfg.cmdDisable (.cmd true (.setRes .disable r a)) })) ∧
  (∀ (s : State) (r : Byte) (a : After),
    (∀ p ∈ [(ResCmd.disable, s.cfg.cmdSetres, ResCmd.setres), (.setres, r, .resByte),
        (.resByte, s.cfg.cmdEnable, .enable)],
      s.main = .respDelay (.setRes p.1 r a) → mainStep s = .next { responseTaken s with
        main := .sendWait p.2.1 (.cmd true (.setRes p.2.2 r a)) }) ∧
    (s.main = .respDelay (.setRes .enable r a) → a ≠ .firmware →
      mainStep s = .next { responseTaken s with ses.frameIdx := 0, main := .startup a }) ∧
    (s.main = .respDelay (.setRes .enable r .firmware) →
      mainStep s = .next { responseTaken s with ses.frameIdx := 0, main := .idle, ret := .unit })) ∧
  (∀ (s : State) (z : Nat) (m : Mode), s.main = .startup (.startZero z m) →
    (zeroWellFormed s.cfg z = false → mainStep s = .fault .config) ∧
    (zeroWellFormed s.cfg z = true → s.em.inited = false →
      mainStep s = .next { s with em.zero := z, main := .startup (.startInit m) }) ∧
    (zeroWellFormed s.cfg z = true → s.em.inited = true → s.preempt = false →
      s.em.cntX.toNat < s.cfg.cntMod → s.em.cntY.toNat < s.cfg.cntMod →
      mainStep s = .next { s with
        em := { s.em with
          zero := z,
          tgtX := z + s.em.cntX.toNat * s.cfg.scaleNum / s.cfg.scaleDen,
          tgtY := z + s.em.cntY.toNat * s.cfg.scaleNum / s.cfg.scaleDen }
        main := .startup (.startInit m) }) ∧
    (zeroWellFormed s.cfg z = true → s.em.inited = true → s.preempt = true →
      s.em.cntX.toNat < s.cfg.cntMod →
      mainStep s = .next { s with
        em := { s.em with
          zero := z, tgtX := z + s.em.cntX.toNat * s.cfg.scaleNum / s.cfg.scaleDen }
        main := .zeroB (.startInit m)
        preempt := false })) ∧
  (∀ (s : State) (m : Mode), s.main = .zeroB (.startInit m) → zeroWellFormed s.cfg s.em.zero = true →
    s.em.cntY.toNat < s.cfg.cntMod →
    mainStep s = .next { s with
      em := { s.em with tgtY := s.em.zero + s.em.cntY.toNat * s.cfg.scaleNum / s.cfg.scaleDen }
      main := .startup (.startInit m) }) ∧
  ∀ (s : State) (m : Mode) (t : State), s.main = .startup (.startInit m) →
    exec (.eInit m) { s with main := .idle } = .next t → mainStep s = .next t

/-! Output Emulator -/

/-- R210, R234: `E.INIT m` releases the ten outputs in the stated order, then stops and clears the timers, sets the
mode, clears the counters and latches `T(0) = ZERO`; nothing else changes. -/
def Obligations.EInitResult : Prop :=
  (∀ cfg, decode cfg (.word 0x00000030) = .ok (.eInit .analog) ∧
    decode cfg (.word 0x00000130) = .ok (.eInit .joystick)) ∧
  ∀ (s : State) (m : Mode), s.main = .idle → zeroWellFormed s.cfg s.em.zero = true →
    exec (.eInit m) s = .next { s with
      em := { syncEn := decide (m = .analog), mode := m, potX := .rel, potY := .rel, sw0 := .rel,
              sw1 := .rel, sw2 := .rel, joyUp := .rel, joyDown := .rel, joyLeft := .rel,
              joyRight := .rel, joyFire := .rel, zero := s.em.zero, cntX := 0, cntY := 0,
              tgtX := s.em.zero, tgtY := s.em.zero, tcnt := 0, tcntRun := false, cmpX := 0, cmpY := 0,
              pulseRun := false, inited := true }
      main := .idle
      ret := .unit
      trace := [.emitSw .fire .rel, .emitSw .right .rel, .emitSw .left .rel, .emitSw .down .rel,
        .emitSw .up .rel, .emitSw .sw2 .rel, .emitSw .sw1 .rel, .emitSw .sw0 .rel, .emitPot .y .rel,
        .emitPot .x .rel] ++ s.trace }

/-- R211, its encoding included, R8: `E.ZERO z` faults on a zero point that is not well formed, writes only `ZERO`
before `E.INIT`, and after it re-latches both targets: in one step, or, where other agents will step between the two
target writes (R69, log 8), X first and Y in MAIN's next step. -/
def Obligations.EZeroResult : Prop :=
  (∀ (cfg : Config) (z : BitVec 16), z.toNat < 2 ^ cfg.tcntBits →
    decode cfg (.word (0#8 ++ z ++ 0x31#8)) = .ok (.eZero z)) ∧
  (∀ (cfg : Config) (z : Nat), cfg.scaleDen ≠ 0 →
    (zeroWellFormed cfg z = true ↔ 1 ≤ z ∧
      z + (cfg.cntMod - 1) * cfg.scaleNum / cfg.scaleDen < 2 ^ cfg.tcntBits ∧
      z + (cfg.cntMod - 1) * cfg.scaleNum / cfg.scaleDen < cfg.syncPeriod)) ∧
  (∀ (s : State) (z : BitVec 16), s.main = .idle →
    (zeroWellFormed s.cfg z.toNat = false → exec (.eZero z) s = .fault .config) ∧
    (zeroWellFormed s.cfg z.toNat = true → s.em.inited = false →
      exec (.eZero z) s = .next { s with em.zero := z.toNat, main := .idle, ret := .unit }) ∧
    (zeroWellFormed s.cfg z.toNat = true → s.em.inited = true → s.preempt = false →
      s.em.cntX.toNat < s.cfg.cntMod → s.em.cntY.toNat < s.cfg.cntMod →
      exec (.eZero z) s = .next { s with
        em := { s.em with
          zero := z.toNat,
          tgtX := z.toNat + s.em.cntX.toNat * s.cfg.scaleNum / s.cfg.scaleDen,
          tgtY := z.toNat + s.em.cntY.toNat * s.cfg.scaleNum / s.cfg.scaleDen }
        main := .idle
        ret := .unit }) ∧
    (zeroWellFormed s.cfg z.toNat = true → s.em.inited = true → s.preempt = true →
      s.em.cntX.toNat < s.cfg.cntMod →
      exec (.eZero z) s = .next { s with
        em := { s.em with
          zero := z.toNat,
          tgtX := z.toNat + s.em.cntX.toNat * s.cfg.scaleNum / s.cfg.scaleDen }
        main := .zeroB .firmware
        preempt := false })) ∧
  ∀ s : State, s.main = .zeroB .firmware → zeroWellFormed s.cfg s.em.zero = true →
    s.em.cntY.toNat < s.cfg.cntMod →
    mainStep s = .next { s with
      em := { s.em with tgtY := s.em.zero + s.em.cntY.toNat * s.cfg.scaleNum / s.cfg.scaleDen }
      main := .idle
      ret := .unit }

/-- R220, R221, R215, R216: `E.MOVE` in Analog mode updates both counters, latches both targets and drives the three
button switches; it writes no pulse output. Where other agents will step between the two target writes (R69, log 8),
X is latched first, and the rest is MAIN's next step. -/
def Obligations.AnalogMoveLatchesTargets : Prop :=
  (∀ (s : State) (dx dy : BitVec 9) (btn : BitVec 3), s.main = .idle → s.em.inited = true →
    s.em.mode = .analog → configOk s.cfg = true → zeroWellFormed s.cfg s.em.zero = true →
    ∃ x y : BitVec 6,
      (x.toNat : Int) = ((s.em.cntX.toNat : Int) + dx.toInt) % (s.cfg.cntMod : Int) ∧
      (y.toNat : Int) = ((s.em.cntY.toNat : Int) + signedDy s.cfg dy.toInt) % (s.cfg.cntMod : Int) ∧
      (s.preempt = false → exec (.eMove dx dy btn) s = .next { s with
        em := { s.em with
          cntX := x, cntY := y,
          tgtX := s.em.zero + x.toNat * s.cfg.scaleNum / s.cfg.scaleDen,
          tgtY := s.em.zero + y.toNat * s.cfg.scaleNum / s.cfg.scaleDen,
          sw0 := if btn.getLsbD 0 then .low else .rel,
          sw1 := if btn.getLsbD 1 then .low else .rel,
          sw2 := if btn.getLsbD 2 then .low else .rel }
        main := .idle
        ret := .unit
        trace := .emitSw .sw2 (if btn.getLsbD 2 then .low else .rel) ::
          .emitSw .sw1 (if btn.getLsbD 1 then .low else .rel) ::
          .emitSw .sw0 (if btn.getLsbD 0 then .low else .rel) :: s.trace }) ∧
      (s.preempt = true → exec (.eMove dx dy btn) s = .next { s with
        em := { s.em with
          cntX := x, cntY := y, tgtX := s.em.zero + x.toNat * s.cfg.scaleNum / s.cfg.scaleDen }
        main := .moveB btn
        preempt := false })) ∧
  ∀ (s : State) (btn : BitVec 3), s.main = .moveB btn → zeroWellFormed s.cfg s.em.zero = true →
    s.em.cntY.toNat < s.cfg.cntMod →
    mainStep s = .next { s with
      em := { s.em with
        tgtY := s.em.zero + s.em.cntY.toNat * s.cfg.scaleNum / s.cfg.scaleDen,
        sw0 := if btn.getLsbD 0 then .low else .rel,
        sw1 := if btn.getLsbD 1 then .low else .rel,
        sw2 := if btn.getLsbD 2 then .low else .rel }
      main := .idle
      ret := .unit
      trace := .emitSw .sw2 (if btn.getLsbD 2 then .low else .rel) ::
        .emitSw .sw1 (if btn.getLsbD 1 then .low else .rel) ::
        .emitSw .sw0 (if btn.getLsbD 0 then .low else .rel) :: s.trace }

/-- R220, R222: `E.MOVE` in Joystick mode updates the counters and targets, asserts the directions of the signs, the
fire output and the auxiliary switch, and starts the pulse. -/
def Obligations.JoystickMoveAssertsDirections : Prop :=
  ∀ (s : State) (dx dy : BitVec 9) (btn : BitVec 3), s.main = .idle → s.em.inited = true →
    s.em.mode = .joystick → configOk s.cfg = true → zeroWellFormed s.cfg s.em.zero = true →
    ∃ (x y : BitVec 6) (t : State),
      (x.toNat : Int) = ((s.em.cntX.toNat : Int) + dx.toInt) % (s.cfg.cntMod : Int) ∧
      (y.toNat : Int) = ((s.em.cntY.toNat : Int) + signedDy s.cfg dy.toInt) % (s.cfg.cntMod : Int) ∧
      exec (.eMove dx dy btn) s = .next t ∧
      t.em = { s.em with
        cntX := x, cntY := y,
        tgtX := s.em.zero + x.toNat * s.cfg.scaleNum / s.cfg.scaleDen,
        tgtY := s.em.zero + y.toNat * s.cfg.scaleNum / s.cfg.scaleDen,
        joyRight := if 0 < dx.toInt then .low else .rel,
        joyLeft := if dx.toInt < 0 then .low else .rel,
        joyUp := if 0 < signedDy s.cfg dy.toInt then .low else .rel,
        joyDown := if signedDy s.cfg dy.toInt < 0 then .low else .rel,
        joyFire := if btn.getLsbD s.cfg.fireBit then .low else .rel,
        potX := if btn.getLsbD s.cfg.auxBit then .low else .rel,
        pulseRun := true } ∧
      t.cfg = s.cfg ∧ t.tr = s.tr ∧ t.ses = s.ses ∧ t.main = .idle ∧ t.ret = .unit ∧
      t.preempt = s.preempt ∧ t.inputs = s.inputs

/-- R69, R298: an `EV.SYNC` between the two target writes of `E.MOVE` loads the new X target and the old Y target;
the second write then completes the move. The same for `E.ZERO`. That the mark `preempt` says where the writes are parted,
and is cleared there, is the model's choice (log 8). -/
def Obligations.SyncBetweenTargetWrites : Prop :=
  (∀ (s : State) (dx dy : BitVec 9) (btn : BitVec 3), s.main = .idle → s.em.inited = true →
    s.em.mode = .analog → s.em.syncEn = true → s.preempt = true → configOk s.cfg = true →
    zeroWellFormed s.cfg s.em.zero = true →
    ∃ t, runMoves [.act (.eMove dx dy btn), .act .evSync, .main] s = .next t ∧
      t.em.cmpX = target s.cfg s.em.zero t.em.cntX.toNat ∧ t.em.cmpY = s.em.tgtY ∧
      t.em.tgtX = target s.cfg s.em.zero t.em.cntX.toNat ∧
      t.em.tgtY = target s.cfg s.em.zero t.em.cntY.toNat ∧
      (t.em.cntX.toNat : Int) = ((s.em.cntX.toNat : Int) + dx.toInt) % (s.cfg.cntMod : Int) ∧
      (t.em.cntY.toNat : Int) = ((s.em.cntY.toNat : Int) + signedDy s.cfg dy.toInt) % (s.cfg.cntMod : Int) ∧
      t.em.sw0 = (if btn.getLsbD 0 then .low else .rel) ∧ t.main = .idle ∧ t.preempt = false) ∧
  ∀ (s : State) (z : BitVec 16), s.main = .idle → s.em.inited = true → s.em.syncEn = true →
    s.preempt = true → zeroWellFormed s.cfg z.toNat = true → s.em.cntX.toNat < s.cfg.cntMod →
    s.em.cntY.toNat < s.cfg.cntMod →
    ∃ t, runMoves [.act (.eZero z), .act .evSync, .main] s = .next t ∧
      t.em.cmpX = target s.cfg z.toNat s.em.cntX.toNat ∧ t.em.cmpY = s.em.tgtY ∧
      t.em.tgtX = target s.cfg z.toNat s.em.cntX.toNat ∧ t.em.tgtY = target s.cfg z.toNat s.em.cntY.toNat ∧
      t.main = .idle ∧ t.preempt = false

/-- R230: the synchronization edge. -/
def Obligations.SyncEdgeStartsTheWindow : Prop :=
  (∀ cfg, decode cfg (.word 0x00000040) = .ok .evSync) ∧
  (∀ s : State, s.em.syncEn = false → exec .evSync s = .next s) ∧
  ∀ s : State, s.em.syncEn = true →
    exec .evSync s = .next { s with
      em := { s.em with
        potX := .low, potY := .low, cmpX := s.em.tgtX, cmpY := s.em.tgtY, tcnt := 0, tcntRun := true }
      trace := .emitPot .y .low :: .emitPot .x .low :: s.trace }

/-- R231: a tick advances a running counter modulo `2^TCNT_BITS` and raises the line whose compare value it reaches.
A running counter means Analog mode (`EmulatorInv.countMode`, kept by every step). -/
def Obligations.CounterTickCompares : Prop :=
  (∀ cfg, decode cfg (.word 0x00000041) = .ok .evTck) ∧
  (∀ s : State, s.em.tcntRun = false → exec .evTck s = .next s) ∧
  ∀ s : State, s.em.tcntRun = true → s.em.mode = .analog →
    ∃ t, exec .evTck s = .next t ∧
      t.em = { s.em with
        tcnt := (s.em.tcnt + 1) % 2 ^ s.cfg.tcntBits,
        potX := if (s.em.tcnt + 1) % 2 ^ s.cfg.tcntBits = s.em.cmpX then .high else s.em.potX,
        potY := if (s.em.tcnt + 1) % 2 ^ s.cfg.tcntBits = s.em.cmpY then .high else s.em.potY } ∧
      t.cfg = s.cfg ∧ t.tr = s.tr ∧ t.ses = s.ses ∧ t.main = s.main ∧ t.ret = s.ret ∧
      t.preempt = s.preempt ∧ t.inputs = s.inputs

/-- R232: the pulse end releases the directions and the fire output, and keeps the auxiliary switch. -/
def Obligations.PulseEndReleasesDirections : Prop :=
  (∀ cfg, decode cfg (.word 0x00000042) = .ok .evPulse) ∧
  (∀ s : State, s.em.pulseRun = false → exec .evPulse s = .next s) ∧
  ∀ s : State, s.em.pulseRun = true →
    exec .evPulse s = .next { s with
      em := { s.em with
        joyUp := .rel, joyDown := .rel, joyLeft := .rel, joyRight := .rel, joyFire := .rel,
        pulseRun := false }
      trace := .emitSw .fire .rel :: .emitSw .right .rel :: .emitSw .left .rel ::
        .emitSw .down .rel :: .emitSw .up .rel :: s.trace }

/-- R233: after an `EV.SYNC` each line is low for the first `t − 1` ticks and high from the `t`-th on, where `t` is
its latched target, as long as the counter does not wrap. -/
def Obligations.PulseWidthIsTheTarget : Prop :=
  ∀ (s : State) (n : Nat), s.em.syncEn = true → s.em.mode = .analog → 1 ≤ s.em.tgtX → 1 ≤ s.em.tgtY →
    n < 2 ^ s.cfg.tcntBits →
    ∃ t, runMoves (.act .evSync :: List.replicate n (.act .evTck)) s = .next t ∧ t.em.tcnt = n ∧
      t.em.potX = (if n < s.em.tgtX then .low else .high) ∧
      t.em.potY = (if n < s.em.tgtY then .low else .high)

/-- R216, R215 (the document's wrap property): `CNT_MOD` moves of +1 return the X counter and its target to where
they were, and leave the Y counter alone. -/
def Obligations.CounterWrapsAround : Prop :=
  ∀ s : State, configOk s.cfg = true → EmulatorInv s → s.main = .idle → s.em.inited = true →
    s.em.mode = .analog → s.preempt = false →
    ∃ t, runMoves (List.replicate s.cfg.cntMod (.act (.eMove 1 0 0))) s = .next t ∧
      t.em.cntX = s.em.cntX ∧ t.em.tgtX = s.em.tgtX ∧ t.em.cntY = s.em.cntY ∧ t.em.tgtY = s.em.tgtY

/-- R8, R300, R215: under a well-formed zero point every counter value's target is at least 1, grows with the
counter, and is below the counter's period and the host's measurement period. -/
def Obligations.TargetsFitTheWindow : Prop :=
  ∀ (cfg : Config) (z c d : Nat), zeroWellFormed cfg z = true → c ≤ d → d < cfg.cntMod →
    1 ≤ target cfg z c ∧ target cfg z c ≤ target cfg z d ∧ target cfg z d < 2 ^ cfg.tcntBits ∧
      target cfg z d < cfg.syncPeriod

/-- R230, R222, R234, R215, R8, R42 to R47: the invariants of the Output Emulator are kept by every step. -/
def Obligations.EmulatorStepKeepsItsInvariants : Prop :=
  ∀ s t : State, EmulatorInv s → step s = .next t → EmulatorInv t

/-- The invariants of the Output Emulator hold at power-on under every configuration that passes the check (its ranges
beyond R8's: log 13). R51 calls `MODE`, the counters, the targets, `TCNT` and the compare channels unwritten there, so
that they hold rests on the values the model names (log 2, DESIGN CHOICE): `Analog` and 0. -/
def Obligations.EmulatorPowerOnMeetsInvariants : Prop :=
  ∀ cfg : Config, configOk cfg = true → EmulatorInv (State.powerOn cfg)

/-- C8, 10_state R20, 42_output ("depends on decoded deltas only, not on Transport"): an operation or event of the
emulator does the same to the emulator whatever the transport and the session hold, and changes neither. -/
def Obligations.EmulatorIndependentOfTransport : Prop :=
  ∀ (s u t : State) (m : Mode) (z : BitVec 16) (dx dy : BitVec 9) (btn : BitVec 3),
    s.cfg = u.cfg → s.em = u.em → s.main = u.main → s.preempt = u.preempt →
    ∀ i ∈ [Instr.eInit m, .eZero z, .eMove dx dy btn, .evSync, .evTck, .evPulse],
      exec i s = .next t →
      t.tr = s.tr ∧ t.ses = s.ses ∧
        ∃ v, exec i u = .next v ∧ v.em = t.em ∧ v.main = t.main ∧ v.tr = u.tr ∧ v.ses = u.ses

/-- 10_state R22 ("Each field is written only by the operations and events its row names"), R31: of the
instructions, only those of the emulator, `S.POLL` through the Movement Router, and `T.INIT` for `SYNC_EN` write an
emulator register; only `S.POLL` writes a session register. -/
def Obligations.RegistersBelongToTheirWriters : Prop :=
  ∀ (i : Instr) (s t : State), exec i s = .next t →
    (i = .tInit → t.em = { s.em with syncEn := false }) ∧
    (i ≠ .sPoll → t.ses = s.ses) ∧
    (i ≠ .tInit → i ≠ .sPoll → (∀ m, i ≠ .eInit m) → (∀ z, i ≠ .eZero z) →
      (∀ dx dy btn, i ≠ .eMove dx dy btn) → i ≠ .evSync → i ≠ .evTck → i ≠ .evPulse → t.em = s.em)

/-! The step and the encodings -/

/-- R70, R101, R253 (log 3): a code that decodes to an instruction, presented by an agent R101 names, with MAIN free
if it is a host operation: the step is that instruction's meaning, with the entry taken from the schedule. -/
def Obligations.StepRunsTheDecodedInstruction : Prop :=
  ∀ (s : State) (a : Agent) (c : Code) (i : Instr) (rest : List Item), configOk s.cfg = true →
    s.inputs = .op a c :: rest → decode s.cfg c = .ok i → a ∈ agentsOf i →
    (isMainOp i = true → s.main = .idle) →
    step s = exec i { s with inputs := rest }

/-- R70, R106, R107, R69, R176, R281, R285 (logs 3, 8, 9, 16, 17, 23, 24): what a step does for each entry of the
schedule. MAIN is ready when it is inside an operation and in no hold whose condition is false. A call by MAIN (a host
operation, `S.FLUSH`, the startup collaborator) lets a ready step of MAIN's pending operation go first, and otherwise is
taken from the schedule and made. `WAIT` takes MAIN's steps, as long as it is ready (within the bound of log 16), until
no operation is pending, with which it is done, or a hold's condition is false, or a step stops. The end of a script asks
that MAIN has no pending operation. -/
def Obligations.ScheduleEntries : Prop :=
  ∀ s : State, configOk s.cfg = true →
    (s.inputs = [] → step s = mainStep s) ∧
    (∀ rest, s.inputs = .main :: rest → step s = mainStep { s with inputs := rest }) ∧
    (∀ rest, s.inputs = .preempt :: rest → step s = .next { s with preempt := true, inputs := rest }) ∧
    (∀ rest, s.inputs = .wait :: rest → s.main = .idle → step s = .next { s with inputs := rest }) ∧
    (∀ rest, s.inputs = .wait :: rest → s.main = .sendDone .op →
      step s = if s.tr.link = .idle then .next { s with main := .idle, ret := .unit, inputs := rest }
        else .refused .waitNotReady) ∧
    (∀ (rest : List Item) (n : Nat), s.inputs = .wait :: rest → n ≤ s.cfg.bootPolls + 16 →
      (∀ k < n, ∃ v, runMoves (List.replicate k .main) { s with inputs := rest } = .next v ∧
        mainReady v = true) →
      (∀ t, runMoves (List.replicate n .main) { s with inputs := rest } = .next t →
        (t.main = .idle → step s = .next t) ∧
        (t.main ≠ .idle → mainReady t = false → step s = .refused .waitNotReady)) ∧
      ∀ f, runMoves (List.replicate n .main) { s with inputs := rest } = .fault f → step s = .fault f) ∧
    (∀ rest t, s.inputs = .wait :: rest → step s = .next t → t.main = .idle ∧
      ∃ n ≤ s.cfg.bootPolls + 16, runMoves (List.replicate n .main) { s with inputs := rest } = .next t) ∧
    (mainReady s = true ↔ s.main ≠ .idle ∧
      ((∃ b c, s.main = .sendWait b c) ∨ (∃ c, s.main = .sendDone c) → s.tr.link = .idle)) ∧
    (∀ rest, s.inputs = .flush :: rest → readyFor s →
      step s = .next { s with tr.rq := [], main := .idle, ret := .bit false, inputs := rest }) ∧
    (∀ a c i rest, s.inputs = .op a c :: rest → decode s.cfg c = .ok i → a ∈ agentsOf i →
      isMainOp i = true →
      (mainReady s = true → step s = mainStep s) ∧
      (mainReady s = false → step s = exec i { s with inputs := rest })) ∧
    (∀ a c i rest, s.inputs = .op a c :: rest → decode s.cfg c = .ok i → a ∈ agentsOf i →
      isMainOp i = false → step s = exec i { s with inputs := rest }) ∧
    (∀ rest, s.inputs = .startup :: rest →
      (mainReady s = true → step s = mainStep s) ∧
      (mainReady s = false → step s = startupOp { s with inputs := rest }) ∧
      (mainReady s = false → s.main ≠ .idle → step s = .refused .mainBusy)) ∧
    (∀ rest, s.inputs = .flush :: rest →
      (mainReady s = true → step s = mainStep s) ∧
      (s.main = .idle → s.tr.inited = false → step s = .fault .uninit) ∧
      (mainReady s = false → s.main ≠ .idle → step s = .refused .mainBusy)) ∧
    (∀ rest, s.inputs = .stop :: rest →
      step s = if s.main = .idle then .next { s with inputs := rest } else .refused .scriptPending)

/-- R7, R8, R252: a step is taken only under a configuration that passes the check at start, otherwise it is the
fault `F_CONFIG`; and no step changes the configuration. The ranges of the check beyond R8's are the model's (log
13). -/
def Obligations.StepChecksAndKeepsTheConfiguration : Prop :=
  (∀ s : State, configOk s.cfg = false → step s = .fault .config) ∧
  ∀ s t : State, step s = .next t → configOk s.cfg = true ∧ t.cfg = s.cfg

/-- R253, R103: an illegal code, and a word presented by an agent R101 does not name for it, are refused in every
state under a configuration that passes the check; no step is taken. R253 says so of an illegal word of MAIN's and of an
event word; that an illegal code of another agent, and a host operation or a PS/2 byte of the wrong agent, are refused in
the same way is the model's choice (log 25), and so is which agents are accepted for an event (log 20). -/
def Obligations.RefusedCodes : Prop :=
  ∀ (s : State) (a : Agent) (c : Code) (rest : List Item), configOk s.cfg = true →
    s.inputs = .op a c :: rest →
    (∀ e, decode s.cfg c = .illegal e → step s = .refused (.illegalWord e)) ∧
    ∀ i, decode s.cfg c = .ok i → a ∉ agentsOf i → step s = .refused (.wrongAgent a)

/-- R101, R103: a word is legal exactly when it meets the match and mask of a row of the opcode table (and, for
`E.ZERO`, its operand is below `2^TCNT_BITS`). -/
def Obligations.IllegalWordsExactly : Prop :=
  ∀ (cfg : Config) (w : OpWord),
    (∃ i, decode cfg (.word w) = .ok i) ↔
      ((∃ p ∈ [((0xFFFFFFFF : OpWord), (0x01 : OpWord)), (0xFFFFFEFF, 0x02), (0xFFFFFFFF, 0x03),
          (0xFFFFFFFF, 0x04), (0xFFFF00FF, 0x05), (0xFFFFFFFF, 0x06), (0xFFFFFEFF, 0x10),
          (0xFFFFFFFF, 0x11), (0xFFFFFFFF, 0x12), (0xFFFFFFFF, 0x20), (0xFFFE00FF, 0x21),
          (0xFFFFFCFF, 0x22), (0x000000FF, 0x23), (0xFFFFFFFF, 0x24), (0xFFFFFEFF, 0x30),
          (0xE00000FF, 0x32), (0xFFFFFFFF, 0x40), (0xFFFFFFFF, 0x41), (0xFFFFFFFF, 0x42)],
          w &&& p.1 = p.2) ∨
        (w &&& 0xFF0000FF = 0x31 ∧ (w.toNat / 256) % 65536 < 2 ^ cfg.tcntBits))

/-- R100 to R102, R90: decoding the encoding of a well-formed instruction gives it back, for every instruction and
every operand; the nine PS/2 bytes must have distinct values (log 11). -/
def Obligations.DecodeOfEncode : Prop :=
  ∀ (cfg : Config) (i : Instr), cfg.wireBytesDistinct = true → i.wellFormed cfg = true →
    decode cfg (encode cfg i) = .ok i

/-- R100 to R103: each legal code has one meaning and is the encoding of it; what decoding gives is well formed. -/
def Obligations.EncodeOfDecode : Prop :=
  ∀ (cfg : Config) (c : Code) (i : Instr), decode cfg c = .ok i →
    encode cfg i = c ∧ i.wellFormed cfg = true

/-- R101, R102, R108 and the words of 95_test_vectors: some words written out. -/
def Obligations.SampleWordsDecode : Prop :=
  ∀ cfg : Config, cfg.tcntBits = 16 →
    decode cfg (.word 0x0000F405) = .ok (.tSend 0xF4) ∧
    decode cfg (.word 0x00000110) = .ok (.evFall true) ∧
    decode cfg (.word 0x07FC0532) = .ok (.eMove 5 (-2) 1) ∧
    decode cfg (.word 0x0C09FD32) = .ok (.eMove (-3) 4 3) ∧
    decode cfg (.word 0x80FF3023) = .ok (.sDecode 0x30 0xFF 0x80) ∧
    decode cfg (.word 0x0001E721) = .ok (.sCmd 0xE7 true) ∧
    decode cfg (.word 0x00000322) = .ok (.sSetres 3) ∧
    decode cfg (.word 0x00014031) = .ok (.eZero 320) ∧
    decode cfg (.word 0x01000001) = .illegal .reservedBits ∧
    decode cfg (.word 0x00000210) = .illegal .operandRange ∧
    decode cfg (.word 0x00000000) = .illegal (.unknownOpcode 0)

/-- R90, R124, R83 (log 10): a command byte of the table is sent by a request-to-send of its value; a response byte
of the table is received as its frame and pushed. -/
def Obligations.WireBytesAreTransferred : Prop :=
  (∀ s : State, readyFor s → s.tr.link = .idle →
    ∀ p ∈ [(Instr.cmdReset, s.cfg.cmdReset), (.cmdDisable, s.cfg.cmdDisable), (.cmdEnable, s.cfg.cmdEnable),
        (.cmdScale21, s.cfg.cmdScale21), (.cmdSetres, s.cfg.cmdSetres), (.cmdStatus, s.cfg.cmdStatus)],
      exec p.1 s = .next (requested p.2 .op s)) ∧
  ∀ s : State, s.tr.edgeEn = true → s.tr.link = .idle →
    ∀ p ∈ [(Instr.rspBatOk, s.cfg.rspBatOk), (.rspAck, s.cfg.rspAck), (.rspId, s.cfg.rspId)],
      exec p.1 s = .next { s with
        tr := { s.tr with
          rxsh := p.2, bitn := 0,
          rq := (if s.tr.rq.length = s.cfg.rqCap then s.tr.rq.tail else s.tr.rq) ++ [p.2] } }
end

