-- ==== Sys2Proof/Laws/State.lean ====
section
/-! SUPPORT. What each named update of the state leaves in each field, one lemma per field per update, so that no later
proof unfolds an update. -/

namespace Sys2Proof.Machine

/-! `note` -/

@[simp] theorem note_cfg (e : TraceEvent) (s : State) : (note e s).cfg = s.cfg := rfl

@[simp] theorem note_tr (e : TraceEvent) (s : State) : (note e s).tr = s.tr := rfl

@[simp] theorem note_ses (e : TraceEvent) (s : State) : (note e s).ses = s.ses := rfl

@[simp] theorem note_em (e : TraceEvent) (s : State) : (note e s).em = s.em := rfl

@[simp] theorem note_main (e : TraceEvent) (s : State) : (note e s).main = s.main := rfl

@[simp] theorem note_ret (e : TraceEvent) (s : State) : (note e s).ret = s.ret := rfl

@[simp] theorem note_trace (e : TraceEvent) (s : State) : (note e s).trace = e :: s.trace := rfl

@[simp] theorem note_preempt (e : TraceEvent) (s : State) : (note e s).preempt = s.preempt := rfl

@[simp] theorem note_inputs (e : TraceEvent) (s : State) : (note e s).inputs = s.inputs := rfl

/-! `Drive` -/

@[simp] theorem drive_cfg (l : Line) (v : Drv) (s : State) : (drive l v s).cfg = s.cfg := by cases l <;> rfl

@[simp] theorem drive_ses (l : Line) (v : Drv) (s : State) : (drive l v s).ses = s.ses := by cases l <;> rfl

@[simp] theorem drive_em (l : Line) (v : Drv) (s : State) : (drive l v s).em = s.em := by cases l <;> rfl

@[simp] theorem drive_main (l : Line) (v : Drv) (s : State) : (drive l v s).main = s.main :=
  by cases l <;> rfl

@[simp] theorem drive_ret (l : Line) (v : Drv) (s : State) : (drive l v s).ret = s.ret := by cases l <;> rfl

@[simp] theorem drive_preempt (l : Line) (v : Drv) (s : State) : (drive l v s).preempt = s.preempt :=
  by cases l <;> rfl

@[simp] theorem drive_inputs (l : Line) (v : Drv) (s : State) : (drive l v s).inputs = s.inputs :=
  by cases l <;> rfl

@[simp] theorem drive_clk_tr (v : Drv) (s : State) : (drive .clk v s).tr = { s.tr with clkDrv := v } := rfl

@[simp] theorem drive_data_tr (v : Drv) (s : State) : (drive .data v s).tr = { s.tr with dataDrv := v } :=
  rfl

@[simp] theorem drive_trace (l : Line) (v : Drv) (s : State) : (drive l v s).trace = .drive l v :: s.trace :=
  by cases l <;> rfl

/-! `Emit` -/

@[simp] theorem emitPot_cfg (o : PotOut) (v : PotLevel) (s : State) : (emitPot o v s).cfg = s.cfg :=
  by cases o <;> rfl

@[simp] theorem emitPot_tr (o : PotOut) (v : PotLevel) (s : State) : (emitPot o v s).tr = s.tr :=
  by cases o <;> rfl

@[simp] theorem emitPot_ses (o : PotOut) (v : PotLevel) (s : State) : (emitPot o v s).ses = s.ses :=
  by cases o <;> rfl

@[simp] theorem emitPot_main (o : PotOut) (v : PotLevel) (s : State) : (emitPot o v s).main = s.main :=
  by cases o <;> rfl

@[simp] theorem emitPot_ret (o : PotOut) (v : PotLevel) (s : State) : (emitPot o v s).ret = s.ret :=
  by cases o <;> rfl

@[simp] theorem emitPot_preempt (o : PotOut) (v : PotLevel) (s : State) : (emitPot o v s).preempt = s.preempt :=
  by cases o <;> rfl

@[simp] theorem emitPot_inputs (o : PotOut) (v : PotLevel) (s : State) : (emitPot o v s).inputs = s.inputs :=
  by cases o <;> rfl

@[simp] theorem emitPot_x_em (v : PotLevel) (s : State) : (emitPot .x v s).em = { s.em with potX := v } :=
  rfl

@[simp] theorem emitPot_y_em (v : PotLevel) (s : State) : (emitPot .y v s).em = { s.em with potY := v } :=
  rfl

@[simp] theorem emitPot_trace (o : PotOut) (v : PotLevel) (s : State) : (emitPot o v s).trace = .emitPot o v :: s.trace :=
  by cases o <;> rfl

@[simp] theorem emitSw_cfg (o : SwOut) (v : Drv) (s : State) : (emitSw o v s).cfg = s.cfg :=
  by cases o <;> rfl

@[simp] theorem emitSw_tr (o : SwOut) (v : Drv) (s : State) : (emitSw o v s).tr = s.tr := by cases o <;> rfl

@[simp] theorem emitSw_ses (o : SwOut) (v : Drv) (s : State) : (emitSw o v s).ses = s.ses :=
  by cases o <;> rfl

@[simp] theorem emitSw_main (o : SwOut) (v : Drv) (s : State) : (emitSw o v s).main = s.main :=
  by cases o <;> rfl

@[simp] theorem emitSw_ret (o : SwOut) (v : Drv) (s : State) : (emitSw o v s).ret = s.ret :=
  by cases o <;> rfl

@[simp] theorem emitSw_preempt (o : SwOut) (v : Drv) (s : State) : (emitSw o v s).preempt = s.preempt :=
  by cases o <;> rfl

@[simp] theorem emitSw_inputs (o : SwOut) (v : Drv) (s : State) : (emitSw o v s).inputs = s.inputs :=
  by cases o <;> rfl

@[simp] theorem emitSw_sw0_em (v : Drv) (s : State) : (emitSw .sw0 v s).em = { s.em with sw0 := v } := rfl

@[simp] theorem emitSw_sw1_em (v : Drv) (s : State) : (emitSw .sw1 v s).em = { s.em with sw1 := v } := rfl

@[simp] theorem emitSw_sw2_em (v : Drv) (s : State) : (emitSw .sw2 v s).em = { s.em with sw2 := v } := rfl

@[simp] theorem emitSw_up_em (v : Drv) (s : State) : (emitSw .up v s).em = { s.em with joyUp := v } := rfl

@[simp] theorem emitSw_down_em (v : Drv) (s : State) : (emitSw .down v s).em = { s.em with joyDown := v } :=
  rfl

@[simp] theorem emitSw_left_em (v : Drv) (s : State) : (emitSw .left v s).em = { s.em with joyLeft := v } :=
  rfl

@[simp] theorem emitSw_right_em (v : Drv) (s : State) : (emitSw .right v s).em = { s.em with joyRight := v } :=
  rfl

@[simp] theorem emitSw_fire_em (v : Drv) (s : State) : (emitSw .fire v s).em = { s.em with joyFire := v } :=
  rfl

@[simp] theorem emitSw_trace (o : SwOut) (v : Drv) (s : State) : (emitSw o v s).trace = .emitSw o v :: s.trace :=
  by cases o <;> rfl

/-! The queue -/

@[simp] theorem push_cfg (b : Byte) (s : State) : (push b s).cfg = s.cfg := rfl

@[simp] theorem push_tr (b : Byte) (s : State) : (push b s).tr = { s.tr with rq := pushed s.cfg.rqCap s.tr.rq b } :=
  rfl

@[simp] theorem push_ses (b : Byte) (s : State) : (push b s).ses = s.ses := rfl

@[simp] theorem push_em (b : Byte) (s : State) : (push b s).em = s.em := rfl

@[simp] theorem push_main (b : Byte) (s : State) : (push b s).main = s.main := rfl

@[simp] theorem push_ret (b : Byte) (s : State) : (push b s).ret = s.ret := rfl

@[simp] theorem push_trace (b : Byte) (s : State) : (push b s).trace = s.trace := rfl

@[simp] theorem push_preempt (b : Byte) (s : State) : (push b s).preempt = s.preempt := rfl

@[simp] theorem push_inputs (b : Byte) (s : State) : (push b s).inputs = s.inputs := rfl

@[simp] theorem clear_cfg (s : State) : (clear s).cfg = s.cfg := rfl

@[simp] theorem clear_tr (s : State) : (clear s).tr = { s.tr with rq := [] } := rfl

@[simp] theorem clear_ses (s : State) : (clear s).ses = s.ses := rfl

@[simp] theorem clear_em (s : State) : (clear s).em = s.em := rfl

@[simp] theorem clear_main (s : State) : (clear s).main = s.main := rfl

@[simp] theorem clear_ret (s : State) : (clear s).ret = s.ret := rfl

@[simp] theorem clear_trace (s : State) : (clear s).trace = s.trace := rfl

@[simp] theorem clear_preempt (s : State) : (clear s).preempt = s.preempt := rfl

@[simp] theorem clear_inputs (s : State) : (clear s).inputs = s.inputs := rfl

/-! The target latches -/

@[simp] theorem latchX_cfg (s : State) : (latchX s).cfg = s.cfg := rfl

@[simp] theorem latchX_tr (s : State) : (latchX s).tr = s.tr := rfl

@[simp] theorem latchX_ses (s : State) : (latchX s).ses = s.ses := rfl

@[simp] theorem latchX_em (s : State) : (latchX s).em = { s.em with tgtX := inWidth s.cfg (target s.cfg s.em.zero s.em.cntX.toNat) } :=
  rfl

@[simp] theorem latchX_main (s : State) : (latchX s).main = s.main := rfl

@[simp] theorem latchX_ret (s : State) : (latchX s).ret = s.ret := rfl

@[simp] theorem latchX_trace (s : State) : (latchX s).trace = s.trace := rfl

@[simp] theorem latchX_preempt (s : State) : (latchX s).preempt = s.preempt := rfl

@[simp] theorem latchX_inputs (s : State) : (latchX s).inputs = s.inputs := rfl

@[simp] theorem latchY_cfg (s : State) : (latchY s).cfg = s.cfg := rfl

@[simp] theorem latchY_tr (s : State) : (latchY s).tr = s.tr := rfl

@[simp] theorem latchY_ses (s : State) : (latchY s).ses = s.ses := rfl

@[simp] theorem latchY_em (s : State) : (latchY s).em = { s.em with tgtY := inWidth s.cfg (target s.cfg s.em.zero s.em.cntY.toNat) } :=
  rfl

@[simp] theorem latchY_main (s : State) : (latchY s).main = s.main := rfl

@[simp] theorem latchY_ret (s : State) : (latchY s).ret = s.ret := rfl

@[simp] theorem latchY_trace (s : State) : (latchY s).trace = s.trace := rfl

@[simp] theorem latchY_preempt (s : State) : (latchY s).preempt = s.preempt := rfl

@[simp] theorem latchY_inputs (s : State) : (latchY s).inputs = s.inputs := rfl

/-! MAIN's position -/

@[simp] theorem holdSend_cfg (b : Byte) (c : SendCaller) (s : State) : (holdSend b c s).cfg = s.cfg := rfl

@[simp] theorem holdSend_tr (b : Byte) (c : SendCaller) (s : State) : (holdSend b c s).tr = s.tr := rfl

@[simp] theorem holdSend_ses (b : Byte) (c : SendCaller) (s : State) : (holdSend b c s).ses = s.ses := rfl

@[simp] theorem holdSend_em (b : Byte) (c : SendCaller) (s : State) : (holdSend b c s).em = s.em := rfl

@[simp] theorem holdSend_main (b : Byte) (c : SendCaller) (s : State) : (holdSend b c s).main = .sendWait b c :=
  rfl

@[simp] theorem holdSend_ret (b : Byte) (c : SendCaller) (s : State) : (holdSend b c s).ret = s.ret := rfl

@[simp] theorem holdSend_trace (b : Byte) (c : SendCaller) (s : State) : (holdSend b c s).trace = s.trace :=
  rfl

@[simp] theorem holdSend_preempt (b : Byte) (c : SendCaller) (s : State) : (holdSend b c s).preempt = s.preempt :=
  rfl

@[simp] theorem holdSend_inputs (b : Byte) (c : SendCaller) (s : State) : (holdSend b c s).inputs = s.inputs :=
  rfl

@[simp] theorem finish_cfg (r : Ret) (s : State) : (finish r s).cfg = s.cfg := rfl

@[simp] theorem finish_tr (r : Ret) (s : State) : (finish r s).tr = s.tr := rfl

@[simp] theorem finish_ses (r : Ret) (s : State) : (finish r s).ses = s.ses := rfl

@[simp] theorem finish_em (r : Ret) (s : State) : (finish r s).em = s.em := rfl

@[simp] theorem finish_main (r : Ret) (s : State) : (finish r s).main = .idle := rfl

@[simp] theorem finish_ret (r : Ret) (s : State) : (finish r s).ret = r := rfl

@[simp] theorem finish_trace (r : Ret) (s : State) : (finish r s).trace = s.trace := rfl

@[simp] theorem finish_preempt (r : Ret) (s : State) : (finish r s).preempt = s.preempt := rfl

@[simp] theorem finish_inputs (r : Ret) (s : State) : (finish r s).inputs = s.inputs := rfl

@[simp] theorem goOn_cfg (a : After) (s : State) : (goOn a s).cfg = s.cfg := by cases a <;> rfl

@[simp] theorem goOn_tr (a : After) (s : State) : (goOn a s).tr = s.tr := by cases a <;> rfl

@[simp] theorem goOn_ses (a : After) (s : State) : (goOn a s).ses = s.ses := by cases a <;> rfl

@[simp] theorem goOn_em (a : After) (s : State) : (goOn a s).em = s.em := by cases a <;> rfl

@[simp] theorem goOn_trace (a : After) (s : State) : (goOn a s).trace = s.trace := by cases a <;> rfl

@[simp] theorem goOn_preempt (a : After) (s : State) : (goOn a s).preempt = s.preempt := by cases a <;> rfl

@[simp] theorem goOn_inputs (a : After) (s : State) : (goOn a s).inputs = s.inputs := by cases a <;> rfl

end Sys2Proof.Machine
end

