-- ==== Sys2Proof/Laws/Emulator.lean ====
section
/-! SUPPORT. What the Output Emulator's shared operations do, once: the well-formed zero point, the targets and counters
as values, and each operation's effect on the fields. -/

namespace Sys2Proof.Machine

theorem zeroWellFormed_bounds {cfg : Config} {z : Nat} (h : zeroWellFormed cfg z = true) :
    cfg.scaleDen ≠ 0 ∧ 1 ≤ z ∧ maxTarget cfg z < 2 ^ cfg.tcntBits ∧ maxTarget cfg z < cfg.syncPeriod := by
  simpa [zeroWellFormed, and_assoc] using h

theorem configOk_bounds {cfg : Config} (h : configOk cfg = true) :
    zeroWellFormed cfg cfg.zeroDefault = true ∧ 1 ≤ cfg.cntMod ∧ cfg.cntMod ≤ 64 ∧ 1 ≤ cfg.rqCap := by
  simpa [configOk, and_assoc] using h

/-- A counter value's target is at most the largest one (R8). -/
theorem target_le_maxTarget (cfg : Config) (z : Nat) {c : Nat} (h : c < cfg.cntMod) :
    target cfg z c ≤ maxTarget cfg z := by
  have hc : c * cfg.scaleNum ≤ (cfg.cntMod - 1) * cfg.scaleNum := Nat.mul_le_mul_right _ (by omega)
  exact Nat.add_le_add_left (Nat.div_le_div_right hc) z

/-- The registers hold the target of a counter value exactly (R215, R8). -/
theorem inWidth_target {cfg : Config} {z c : Nat} (hz : zeroWellFormed cfg z = true) (hc : c < cfg.cntMod) :
    inWidth cfg (target cfg z c) = target cfg z c :=
  Nat.mod_eq_of_lt ((target_le_maxTarget cfg z hc).trans_lt (zeroWellFormed_bounds hz).2.2.1)

/-- A register of `TCNT_BITS` bits holds a value of that width (R42 to R46). -/
theorem inWidth_lt (cfg : Config) (v : Nat) : inWidth cfg v < 2 ^ cfg.tcntBits := Nat.mod_lt _ (by positivity)

@[simp] theorem target_zero (cfg : Config) (z : Nat) : target cfg z 0 = z := by simp [target, scaled]

/-- `Upd(c, d) = (c + d) mod CNT_MOD` as a number (R216). -/
theorem upd_toNat {cfg : Config} (h : configOk cfg = true) (c : BitVec 6) (d : Int) :
    ((upd cfg c d).toNat : Int) = ((c.toNat : Int) + d) % (cfg.cntMod : Int) := by
  obtain ⟨-, h1, h64, -⟩ := configOk_bounds h
  have h0 : 0 ≤ ((c.toNat : Int) + d) % (cfg.cntMod : Int) := Int.emod_nonneg _ (by omega)
  have hlt : ((c.toNat : Int) + d) % (cfg.cntMod : Int) < cfg.cntMod := Int.emod_lt_of_pos _ (by omega)
  simp only [upd, BitVec.toNat_ofNat]
  rw [Nat.mod_eq_of_lt (by omega)]
  omega

theorem upd_lt {cfg : Config} (h : configOk cfg = true) (c : BitVec 6) (d : Int) :
    (upd cfg c d).toNat < cfg.cntMod := by
  obtain ⟨-, h1, -, -⟩ := configOk_bounds h
  have hlt : ((c.toNat : Int) + d) % (cfg.cntMod : Int) < cfg.cntMod := Int.emod_lt_of_pos _ (by omega)
  have := upd_toNat h c d
  omega

/-! Nothing of the Output Emulator writes outside its own registers and the trace (42_output). -/

@[simp] theorem releaseAll_cfg (s : State) : (releaseAll s).cfg = s.cfg := by simp [releaseAll]

@[simp] theorem releaseAll_tr (s : State) : (releaseAll s).tr = s.tr := by simp [releaseAll]

@[simp] theorem releaseAll_ses (s : State) : (releaseAll s).ses = s.ses := by simp [releaseAll]

@[simp] theorem releaseAll_main (s : State) : (releaseAll s).main = s.main := by simp [releaseAll]

@[simp] theorem releaseAll_ret (s : State) : (releaseAll s).ret = s.ret := by simp [releaseAll]

@[simp] theorem releaseAll_preempt (s : State) : (releaseAll s).preempt = s.preempt := by simp [releaseAll]

@[simp] theorem releaseAll_inputs (s : State) : (releaseAll s).inputs = s.inputs := by simp [releaseAll]

@[simp] theorem initEmulator_cfg (m : Mode) (s : State) : (initEmulator m s).cfg = s.cfg := by
  cases m <;> simp [initEmulator]

@[simp] theorem initEmulator_tr (m : Mode) (s : State) : (initEmulator m s).tr = s.tr := by
  cases m <;> simp [initEmulator]

@[simp] theorem initEmulator_ses (m : Mode) (s : State) : (initEmulator m s).ses = s.ses := by
  cases m <;> simp [initEmulator]

@[simp] theorem initEmulator_main (m : Mode) (s : State) : (initEmulator m s).main = s.main := by
  cases m <;> simp [initEmulator]

@[simp] theorem initEmulator_ret (m : Mode) (s : State) : (initEmulator m s).ret = s.ret := by
  cases m <;> simp [initEmulator]

@[simp] theorem initEmulator_preempt (m : Mode) (s : State) : (initEmulator m s).preempt = s.preempt := by
  cases m <;> simp [initEmulator]

@[simp] theorem initEmulator_inputs (m : Mode) (s : State) : (initEmulator m s).inputs = s.inputs := by
  cases m <;> simp [initEmulator]

@[simp] theorem emitButtons_cfg (btn : BitVec 3) (s : State) : (emitButtons btn s).cfg = s.cfg := by simp [emitButtons]

@[simp] theorem emitButtons_tr (btn : BitVec 3) (s : State) : (emitButtons btn s).tr = s.tr := by simp [emitButtons]

@[simp] theorem emitButtons_ses (btn : BitVec 3) (s : State) : (emitButtons btn s).ses = s.ses := by simp [emitButtons]

@[simp] theorem emitButtons_main (btn : BitVec 3) (s : State) : (emitButtons btn s).main = s.main := by simp [emitButtons]

@[simp] theorem emitButtons_ret (btn : BitVec 3) (s : State) : (emitButtons btn s).ret = s.ret := by simp [emitButtons]

@[simp] theorem emitButtons_preempt (btn : BitVec 3) (s : State) : (emitButtons btn s).preempt = s.preempt := by simp [emitButtons]

@[simp] theorem emitButtons_inputs (btn : BitVec 3) (s : State) : (emitButtons btn s).inputs = s.inputs := by simp [emitButtons]

@[simp] theorem analogMoveB_cfg (btn : BitVec 3) (s : State) : (analogMoveB btn s).cfg = s.cfg := by simp [analogMoveB]

@[simp] theorem analogMoveB_tr (btn : BitVec 3) (s : State) : (analogMoveB btn s).tr = s.tr := by simp [analogMoveB]

@[simp] theorem analogMoveB_ses (btn : BitVec 3) (s : State) : (analogMoveB btn s).ses = s.ses := by simp [analogMoveB]

@[simp] theorem analogMoveB_main (btn : BitVec 3) (s : State) : (analogMoveB btn s).main = s.main := by simp [analogMoveB]

@[simp] theorem analogMoveB_ret (btn : BitVec 3) (s : State) : (analogMoveB btn s).ret = s.ret := by simp [analogMoveB]

@[simp] theorem analogMoveB_preempt (btn : BitVec 3) (s : State) : (analogMoveB btn s).preempt = s.preempt := by simp [analogMoveB]

@[simp] theorem analogMoveB_inputs (btn : BitVec 3) (s : State) : (analogMoveB btn s).inputs = s.inputs := by simp [analogMoveB]

@[simp] theorem joystickMove_cfg (dx dy : Int) (btn : BitVec 3) (s : State) : (joystickMove dx dy btn s).cfg = s.cfg := by simp [joystickMove]

@[simp] theorem joystickMove_tr (dx dy : Int) (btn : BitVec 3) (s : State) : (joystickMove dx dy btn s).tr = s.tr := by simp [joystickMove]

@[simp] theorem joystickMove_ses (dx dy : Int) (btn : BitVec 3) (s : State) : (joystickMove dx dy btn s).ses = s.ses := by simp [joystickMove]

@[simp] theorem joystickMove_main (dx dy : Int) (btn : BitVec 3) (s : State) : (joystickMove dx dy btn s).main = s.main := by simp [joystickMove]

@[simp] theorem joystickMove_ret (dx dy : Int) (btn : BitVec 3) (s : State) : (joystickMove dx dy btn s).ret = s.ret := by simp [joystickMove]

@[simp] theorem joystickMove_preempt (dx dy : Int) (btn : BitVec 3) (s : State) : (joystickMove dx dy btn s).preempt = s.preempt := by simp [joystickMove]

@[simp] theorem joystickMove_inputs (dx dy : Int) (btn : BitVec 3) (s : State) : (joystickMove dx dy btn s).inputs = s.inputs := by simp [joystickMove]

@[simp] theorem moveCounters_cfg (dx dy : Int) (s : State) : (moveCounters dx dy s).cfg = s.cfg := rfl

@[simp] theorem moveCounters_tr (dx dy : Int) (s : State) : (moveCounters dx dy s).tr = s.tr := rfl

@[simp] theorem moveCounters_ses (dx dy : Int) (s : State) : (moveCounters dx dy s).ses = s.ses := rfl

@[simp] theorem moveCounters_main (dx dy : Int) (s : State) : (moveCounters dx dy s).main = s.main := rfl

@[simp] theorem moveCounters_ret (dx dy : Int) (s : State) : (moveCounters dx dy s).ret = s.ret := rfl

@[simp] theorem moveCounters_preempt (dx dy : Int) (s : State) : (moveCounters dx dy s).preempt = s.preempt := rfl

@[simp] theorem moveCounters_inputs (dx dy : Int) (s : State) : (moveCounters dx dy s).inputs = s.inputs := rfl

@[simp] theorem syncEdge_cfg (s : State) : (syncEdge s).cfg = s.cfg := by
  unfold syncEdge; split <;> simp

@[simp] theorem syncEdge_tr (s : State) : (syncEdge s).tr = s.tr := by
  unfold syncEdge; split <;> simp

@[simp] theorem syncEdge_ses (s : State) : (syncEdge s).ses = s.ses := by
  unfold syncEdge; split <;> simp

@[simp] theorem syncEdge_main (s : State) : (syncEdge s).main = s.main := by
  unfold syncEdge; split <;> simp

@[simp] theorem syncEdge_ret (s : State) : (syncEdge s).ret = s.ret := by
  unfold syncEdge; split <;> simp

@[simp] theorem syncEdge_preempt (s : State) : (syncEdge s).preempt = s.preempt := by
  unfold syncEdge; split <;> simp

@[simp] theorem syncEdge_inputs (s : State) : (syncEdge s).inputs = s.inputs := by
  unfold syncEdge; split <;> simp

@[simp] theorem compareChannel_cfg (o : PotOut) (cmp : Nat) (s : State) : (compareChannel o cmp s).cfg = s.cfg := by
  unfold compareChannel; split <;> simp

@[simp] theorem compareChannel_tr (o : PotOut) (cmp : Nat) (s : State) : (compareChannel o cmp s).tr = s.tr := by
  unfold compareChannel; split <;> simp

@[simp] theorem compareChannel_ses (o : PotOut) (cmp : Nat) (s : State) : (compareChannel o cmp s).ses = s.ses := by
  unfold compareChannel; split <;> simp

@[simp] theorem compareChannel_main (o : PotOut) (cmp : Nat) (s : State) : (compareChannel o cmp s).main = s.main := by
  unfold compareChannel; split <;> simp

@[simp] theorem compareChannel_ret (o : PotOut) (cmp : Nat) (s : State) : (compareChannel o cmp s).ret = s.ret := by
  unfold compareChannel; split <;> simp

@[simp] theorem compareChannel_preempt (o : PotOut) (cmp : Nat) (s : State) : (compareChannel o cmp s).preempt = s.preempt := by
  unfold compareChannel; split <;> simp

@[simp] theorem compareChannel_inputs (o : PotOut) (cmp : Nat) (s : State) : (compareChannel o cmp s).inputs = s.inputs := by
  unfold compareChannel; split <;> simp

@[simp] theorem counterTick_cfg (s : State) : (counterTick s).cfg = s.cfg := by
  unfold counterTick; split <;> simp

@[simp] theorem counterTick_tr (s : State) : (counterTick s).tr = s.tr := by
  unfold counterTick; split <;> simp

@[simp] theorem counterTick_ses (s : State) : (counterTick s).ses = s.ses := by
  unfold counterTick; split <;> simp

@[simp] theorem counterTick_main (s : State) : (counterTick s).main = s.main := by
  unfold counterTick; split <;> simp

@[simp] theorem counterTick_ret (s : State) : (counterTick s).ret = s.ret := by
  unfold counterTick; split <;> simp

@[simp] theorem counterTick_preempt (s : State) : (counterTick s).preempt = s.preempt := by
  unfold counterTick; split <;> simp

@[simp] theorem counterTick_inputs (s : State) : (counterTick s).inputs = s.inputs := by
  unfold counterTick; split <;> simp

@[simp] theorem pulseEnd_cfg (s : State) : (pulseEnd s).cfg = s.cfg := by
  unfold pulseEnd; split <;> simp

@[simp] theorem pulseEnd_tr (s : State) : (pulseEnd s).tr = s.tr := by
  unfold pulseEnd; split <;> simp

@[simp] theorem pulseEnd_ses (s : State) : (pulseEnd s).ses = s.ses := by
  unfold pulseEnd; split <;> simp

@[simp] theorem pulseEnd_main (s : State) : (pulseEnd s).main = s.main := by
  unfold pulseEnd; split <;> simp

@[simp] theorem pulseEnd_ret (s : State) : (pulseEnd s).ret = s.ret := by
  unfold pulseEnd; split <;> simp

@[simp] theorem pulseEnd_preempt (s : State) : (pulseEnd s).preempt = s.preempt := by
  unfold pulseEnd; split <;> simp

@[simp] theorem pulseEnd_inputs (s : State) : (pulseEnd s).inputs = s.inputs := by
  unfold pulseEnd; split <;> simp

@[simp] theorem moveCounters_em (dx dy : Int) (s : State) :
    (moveCounters dx dy s).em =
      { s.em with cntX := upd s.cfg s.em.cntX dx, cntY := upd s.cfg s.em.cntY (signedDy s.cfg dy) } := rfl

@[simp] theorem releaseAll_em (s : State) :
    (releaseAll s).em =
      { s.em with
        potX := .rel, potY := .rel, sw0 := .rel, sw1 := .rel, sw2 := .rel, joyUp := .rel, joyDown := .rel,
        joyLeft := .rel, joyRight := .rel, joyFire := .rel } := rfl

@[simp] theorem emitButtons_em (btn : BitVec 3) (s : State) :
    (emitButtons btn s).em =
      { s.em with
        sw0 := switchOf (btn.getLsbD 0), sw1 := switchOf (btn.getLsbD 1), sw2 := switchOf (btn.getLsbD 2) } := rfl

/-- What `E.MOVE` leaves alone, and where it leaves MAIN (R220, R69). -/
theorem moveOp_next {dx dy : Int} {btn : BitVec 3} {s t : State} (h : moveOp dx dy btn s = .next t) :
    t.cfg = s.cfg ∧ t.tr = s.tr ∧ t.ses = s.ses ∧ t.inputs = s.inputs ∧
      (t.main = .idle ∨ t.main = .moveB btn) := by
  unfold moveOp at h
  split at h
  · dsimp only at h
    split at h
    · split at h <;> (rw [Host.Outcome.next.injEq] at h; subst h; simp)
    · rw [Host.Outcome.next.injEq] at h; subst h; simp
  · cases h

/-- What `E.ZERO` leaves alone, and where it leaves MAIN (R211, R69). -/
theorem zeroOp_next {z : Nat} {a : After} {s t : State} (h : zeroOp z a s = .next t) :
    t.cfg = s.cfg ∧ t.tr = s.tr ∧ t.ses = s.ses ∧ t.inputs = s.inputs ∧
      (t.main = (goOn a s).main ∨ t.main = .zeroB a) := by
  unfold zeroOp at h
  split at h
  · dsimp only at h
    split at h
    · split at h <;> (rw [Host.Outcome.next.injEq] at h; subst h; cases a <;> simp [goOn])
    · rw [Host.Outcome.next.injEq] at h; subst h; cases a <;> simp [goOn]
  · cases h

end Sys2Proof.Machine
end

