-- ==== Sys2Proof/Laws/Encoding.lean ====
section
/-! SUPPORT. The words of spec/30_encoding.md R100 as numbers: what `field` reads, and what each format's parts make
together, so that questions about encodings are linear arithmetic. -/

namespace Sys2Proof

theorem field_toNat (w : OpWord) (lo n : Nat) : (field w lo n).toNat = w.toNat / 2 ^ lo % 2 ^ n := by
  rw [field, BitVec.extractLsb'_toNat, Nat.shiftRight_eq_div_pow]

theorem toNat_append' {n m : Nat} (x : BitVec n) (y : BitVec m) :
    (x ++ y).toNat = x.toNat * 2 ^ m + y.toNat := by
  rw [BitVec.toNat_append, ← Nat.shiftLeft_add_eq_or_of_lt y.isLt, Nat.shiftLeft_eq]

/-- Format N. -/
theorem toNat_formatN (op : BitVec 8) : BitVec.toNat (w := 32) (0#24 ++ op) = op.toNat :=
  (toNat_append' _ _).trans (by simp)

/-- Format B. -/
theorem toNat_formatB (imm : Byte) (op : BitVec 8) :
    BitVec.toNat (w := 32) (0#16 ++ imm ++ op) = imm.toNat * 256 + op.toNat :=
  (toNat_append' _ _).trans (by rw [toNat_append']; simp)

/-- Format H. -/
theorem toNat_formatH (imm : BitVec 16) (op : BitVec 8) :
    BitVec.toNat (w := 32) (0#8 ++ imm ++ op) = imm.toNat * 256 + op.toNat :=
  (toNat_append' _ _).trans (by rw [toNat_append']; simp)

/-- Format C. -/
theorem toNat_formatC (e : BitVec 1) (code : Byte) (op : BitVec 8) :
    BitVec.toNat (w := 32) (0#15 ++ e ++ code ++ op) = (e.toNat * 256 + code.toNat) * 256 + op.toNat :=
  (toNat_append' _ _).trans (by rw [toNat_append', toNat_append']; simp)

/-- Format F. -/
theorem toNat_formatF (f2 f1 f0 : Byte) (op : BitVec 8) :
    BitVec.toNat (w := 32) (f2 ++ f1 ++ f0 ++ op) =
      ((f2.toNat * 256 + f1.toNat) * 256 + f0.toNat) * 256 + op.toNat :=
  (toNat_append' _ _).trans (by rw [toNat_append', toNat_append']; norm_num)

/-- Format M. -/
theorem toNat_formatM (btn : BitVec 3) (dy dx : BitVec 9) (op : BitVec 8) :
    BitVec.toNat (w := 32) (0#3 ++ btn ++ dy ++ dx ++ op) =
      ((btn.toNat * 512 + dy.toNat) * 512 + dx.toNat) * 256 + op.toNat :=
  (toNat_append' _ _).trans (by rw [toNat_append', toNat_append', toNat_append']; simp)

/-- The fields of a word of format B. -/
theorem fields_formatB (imm : Byte) (op : BitVec 8) :
    field (0#16 ++ imm ++ op) 0 8 = op ∧
      field (0#16 ++ imm ++ op) 8 8 = imm ∧
      field (0#16 ++ imm ++ op) 16 16 = 0 := by
  have := imm.isLt
  have := op.isLt
  refine ⟨?_, ?_, ?_⟩ <;>
    (apply BitVec.eq_of_toNat_eq; rw [field_toNat, toNat_formatB];
      (try simp only [BitVec.ofNat_eq_ofNat, BitVec.toNat_ofNat]); omega)

/-- The fields of a word of format H. -/
theorem fields_formatH (imm : BitVec 16) (op : BitVec 8) :
    field (0#8 ++ imm ++ op) 0 8 = op ∧
      field (0#8 ++ imm ++ op) 8 16 = imm ∧
      field (0#8 ++ imm ++ op) 24 8 = 0 := by
  have := imm.isLt
  have := op.isLt
  refine ⟨?_, ?_, ?_⟩ <;>
    (apply BitVec.eq_of_toNat_eq; rw [field_toNat, toNat_formatH];
      (try simp only [BitVec.ofNat_eq_ofNat, BitVec.toNat_ofNat]); omega)

/-- The fields of a word of format C. -/
theorem fields_formatC (e : BitVec 1) (code : Byte) (op : BitVec 8) :
    field (0#15 ++ e ++ code ++ op) 0 8 = op ∧
      field (0#15 ++ e ++ code ++ op) 8 8 = code ∧
      field (0#15 ++ e ++ code ++ op) 16 1 = e ∧
      field (0#15 ++ e ++ code ++ op) 17 15 = 0 := by
  have := e.isLt
  have := code.isLt
  have := op.isLt
  refine ⟨?_, ?_, ?_, ?_⟩ <;>
    (apply BitVec.eq_of_toNat_eq; rw [field_toNat, toNat_formatC];
      (try simp only [BitVec.ofNat_eq_ofNat, BitVec.toNat_ofNat]); omega)

/-- The fields of a word of format F. -/
theorem fields_formatF (f2 f1 f0 : Byte) (op : BitVec 8) :
    field (f2 ++ f1 ++ f0 ++ op) 0 8 = op ∧
      field (f2 ++ f1 ++ f0 ++ op) 8 8 = f0 ∧
      field (f2 ++ f1 ++ f0 ++ op) 16 8 = f1 ∧
      field (f2 ++ f1 ++ f0 ++ op) 24 8 = f2 := by
  have := f0.isLt
  have := f1.isLt
  have := f2.isLt
  have := op.isLt
  refine ⟨?_, ?_, ?_, ?_⟩ <;>
    (apply BitVec.eq_of_toNat_eq; rw [field_toNat, toNat_formatF]; omega)

/-- The fields of a word of format M. -/
theorem fields_formatM (btn : BitVec 3) (dy dx : BitVec 9) (op : BitVec 8) :
    field (0#3 ++ btn ++ dy ++ dx ++ op) 0 8 = op ∧
      field (0#3 ++ btn ++ dy ++ dx ++ op) 8 9 = dx ∧
      field (0#3 ++ btn ++ dy ++ dx ++ op) 17 9 = dy ∧
      field (0#3 ++ btn ++ dy ++ dx ++ op) 26 3 = btn ∧
      field (0#3 ++ btn ++ dy ++ dx ++ op) 29 3 = 0 := by
  have := btn.isLt
  have := dy.isLt
  have := dx.isLt
  have := op.isLt
  refine ⟨?_, ?_, ?_, ?_, ?_⟩ <;>
    (apply BitVec.eq_of_toNat_eq; rw [field_toNat, toNat_formatM];
      (try simp only [BitVec.ofNat_eq_ofNat, BitVec.toNat_ofNat]); omega)

end Sys2Proof
end

