-- ==== Sys2Proof/Laws/PerInstr.lean ====
section
/-! SUPPORT. One law for each instruction: its encoding carries its row's number in spec/opcode_table.json, whatever its
operands are. -/

namespace Sys2Proof.Laws.RowNumber

open Sys2Proof

/-- The row's number: the opcode of R101 for an operation word, the default value of R90 for a PS/2 byte. -/
def number : Instr → BitVec 8
  | .tInit => 0x01
  | .tEnrx _ => 0x02
  | .tAvail => 0x03
  | .tGet => 0x04
  | .tSend _ => 0x05
  | .tBusy => 0x06
  | .evFall _ => 0x10
  | .evTtmr => 0x11
  | .evBidle => 0x12
  | .sBoot => 0x20
  | .sCmd _ _ => 0x21
  | .sSetres _ => 0x22
  | .sDecode _ _ _ => 0x23
  | .sPoll => 0x24
  | .eInit _ => 0x30
  | .eZero _ => 0x31
  | .eMove _ _ _ => 0x32
  | .evSync => 0x40
  | .evTck => 0x41
  | .evPulse => 0x42
  | .cmdReset => 0xFF
  | .cmdDisable => 0xF5
  | .cmdEnable => 0xF4
  | .cmdScale21 => 0xE7
  | .cmdSetres => 0xE8
  | .cmdStatus => 0xE9
  | .rspBatOk => 0xAA
  | .rspAck => 0xFA
  | .rspId => 0x00

/-- The low eight bits of a code. -/
def lowBits : Code → BitVec 8
  | .word w => field w 0 8
  | .byte b => b

/-- The instruction's encoding carries its row's number (R100, R101, R90). -/
def Statement (i : Instr) : Prop := lowBits (encode Config.default i) = number i

theorem tInit : Statement .tInit := rfl

theorem tEnrx (e : Bool) : Statement (.tEnrx e) := by cases e <;> rfl

theorem tAvail : Statement .tAvail := rfl

theorem tGet : Statement .tGet := rfl

theorem tSend (b : Byte) : Statement (.tSend b) := (fields_formatB b 0x05).1

theorem tBusy : Statement .tBusy := rfl

theorem evFall (d : Bool) : Statement (.evFall d) := by cases d <;> rfl

theorem evTtmr : Statement .evTtmr := rfl

theorem evBidle : Statement .evBidle := rfl

theorem sBoot : Statement .sBoot := rfl

theorem sCmd (code : Byte) (expect : Bool) : Statement (.sCmd code expect) :=
  (fields_formatC (BitVec.ofBool expect) code 0x21).1

theorem sSetres (r : Byte) : Statement (.sSetres r) := (fields_formatB r 0x22).1

theorem sDecode (f0 f1 f2 : Byte) : Statement (.sDecode f0 f1 f2) := (fields_formatF f2 f1 f0 0x23).1

theorem sPoll : Statement .sPoll := rfl

theorem eInit (m : Mode) : Statement (.eInit m) := by cases m <;> rfl

theorem eZero (z : BitVec 16) : Statement (.eZero z) := (fields_formatH z 0x31).1

theorem eMove (dx dy : BitVec 9) (btn : BitVec 3) : Statement (.eMove dx dy btn) :=
  (fields_formatM btn dy dx 0x32).1

theorem evSync : Statement .evSync := rfl

theorem evTck : Statement .evTck := rfl

theorem evPulse : Statement .evPulse := rfl

theorem cmdReset : Statement .cmdReset := rfl

theorem cmdDisable : Statement .cmdDisable := rfl

theorem cmdEnable : Statement .cmdEnable := rfl

theorem cmdScale21 : Statement .cmdScale21 := rfl

theorem cmdSetres : Statement .cmdSetres := rfl

theorem cmdStatus : Statement .cmdStatus := rfl

theorem rspBatOk : Statement .rspBatOk := rfl

theorem rspAck : Statement .rspAck := rfl

theorem rspId : Statement .rspId := rfl

end Sys2Proof.Laws.RowNumber
end

