-- ==== Sys2Proof/Laws/Transport.lean ====
section
/-! SUPPORT. What the Transport Engine's shared operations do, once: the error entry, the request-to-send and the
recovery field by field, what no edge changes, and the received frame. -/

namespace Sys2Proof.Machine

theorem enterError_eq (c : Cause) (s : State) : enterError c s = errored c s := rfl

theorem requestToSend_eq (b : Byte) (c : SendCaller) (s : State) : requestToSend b c s = requested b c s := rfl

theorem startSend_idle {s : State} (h : s.tr.link = .idle) (b : Byte) (c : SendCaller) :
    startSend b c s = requested b c s := by simp [startSend, h, requestToSend_eq]

theorem startSend_held {s : State} (h : s.tr.link ≠ .idle) (b : Byte) (c : SendCaller) :
    startSend b c s = holdSend b c s := by simp [startSend, h]

/-- A transport or session operation runs when MAIN is free and `T.INIT` has run (R252, R283). -/
theorem transportOp_ready {s : State} (h : readyFor s) (k : State → Result) : transportOp s k = k s := by
  simp [transportOp, onMain, afterTInit, h.1, h.2]

theorem onMain_free {s : State} (h : s.main = .idle) (k : State → Result) : onMain s k = k s := by
  simp [onMain, h]

/-- A host operation answers a next state only when MAIN was free. -/
theorem onMain_next {s t : State} {k : State → Result} (h : onMain s k = .next t) :
    s.main = .idle ∧ k s = .next t := by
  unfold onMain at h
  split at h
  · exact ⟨‹_›, h⟩
  · cases h

/-- A transport or session operation answers a next state only when MAIN was free, after `T.INIT`. -/
theorem transportOp_next {s t : State} {k : State → Result} (h : transportOp s k = .next t) :
    s.main = .idle ∧ s.tr.inited = true ∧ k s = .next t := by
  obtain ⟨h1, h2⟩ := onMain_next h
  unfold afterTInit at h2
  split at h2
  · exact ⟨h1, ‹_›, h2⟩
  · cases h2

/-- `v[n] <- d` writes bit `n` and no other (R131). -/
theorem setBit_getLsbD (v : Byte) {n : Nat} (hn : n < 8) (d : Bool) {k : Nat} (hk : k < 8) :
    (setBit v n d).getLsbD k = if k = n then d else v.getLsbD k := by
  have hx : (1#8 <<< n).getLsbD k = decide (k = n) := by
    have : ∀ n < 8, ∀ k < 8, (1#8 <<< n).getLsbD k = decide (k = n) := by decide
    exact this n hn k hk
  cases d <;>
    simp only [setBit, Bool.false_eq_true, ↓reduceIte, BitVec.getLsbD_and, BitVec.getLsbD_or,
      BitVec.getLsbD_not, hx, hk] <;>
    by_cases hkn : k = n <;> simp [hkn]

/-- The parity bit passes the parity check of its own byte, and no other bit does (R81). -/
theorem parityOk_eq (v : Byte) (p : Bool) : parityOk v p = decide (p = oddPar v) := by
  rcases Nat.mod_two_eq_zero_or_one (popcount v) with h | h <;> cases p <;>
    simp [oddPar, parityOk, h] <;> omega

/-- No falling edge writes anything outside the transport and the trace (R126 to R156). -/
theorem takeFall_keeps (d : Bool) (s : State) :
    (takeFall d s).cfg = s.cfg ∧ (takeFall d s).em = s.em ∧ (takeFall d s).main = s.main ∧
      (takeFall d s).ses = s.ses ∧ (takeFall d s).ret = s.ret ∧ (takeFall d s).preempt = s.preempt ∧
      (takeFall d s).inputs = s.inputs := by
  unfold takeFall
  split
  · split <;>
      simp only [fallIdle, fallRxData, fallRxParity, fallRxStop, fallTxRequest, fallTxData, fallTxParity,
        fallTxStop, fallTxAck] <;>
      (repeat' split) <;> simp [enterError]
  · simp

theorem takeFalls_cons (d : Bool) (ds : List Bool) (s : State) :
    takeFalls (d :: ds) s = takeFalls ds (takeFall d s) := rfl

theorem takeFalls_append (ds es : List Bool) (s : State) :
    takeFalls (ds ++ es) s = takeFalls es (takeFalls ds s) := List.foldl_append

theorem takeFalls_keeps (ds : List Bool) (s : State) :
    (takeFalls ds s).cfg = s.cfg ∧ (takeFalls ds s).em = s.em ∧ (takeFalls ds s).main = s.main ∧
      (takeFalls ds s).ses = s.ses ∧ (takeFalls ds s).ret = s.ret ∧ (takeFalls ds s).preempt = s.preempt ∧
      (takeFalls ds s).inputs = s.inputs := by
  induction ds generalizing s with
  | nil => simp [takeFalls]
  | cons d ds ih =>
    have h := takeFall_keeps d s
    have h' := ih (takeFall d s)
    rw [takeFalls_cons]
    simp_all

/-- Runs of moves compose. -/
theorem runMoves_append {ms : List Move} {s t : State} (h : runMoves ms s = .next t) (ns : List Move) :
    runMoves (ms ++ ns) s = runMoves ns t := by
  induction ms generalizing s with
  | nil => simp only [runMoves, Host.Outcome.next.injEq] at h; subst h; rfl
  | cons m ms ih =>
    simp only [runMoves, List.cons_append] at h ⊢
    cases hm : runMove m s with
    | next u => rw [hm] at h; exact ih h
    | fault r => rw [hm] at h; cases h
    | refused r => rw [hm] at h; cases h

theorem runMoves_fallMoves (ds : List Bool) (s : State) : runMoves (fallMoves ds) s = .next (takeFalls ds s) := by
  induction ds generalizing s with
  | nil => rfl
  | cons d ds ih => exact ih (takeFall d s)

/-- While `EDGE_EN = 0` no edge has any effect (R126). -/
theorem takeFalls_disarmed (ds : List Bool) {s : State} (h : s.tr.edgeEn = false) : takeFalls ds s = s := by
  induction ds with
  | nil => rfl
  | cons d ds ih =>
    rw [takeFalls_cons]
    simpa [takeFall, h] using ih

/-- The eight data bits, least significant first, make the byte (R131, R80). -/
theorem setBit_all (b : Byte) :
    setBit (setBit (setBit (setBit (setBit (setBit (setBit (setBit 0#8 0 (b.getLsbD 0)) 1 (b.getLsbD 1))
      2 (b.getLsbD 2)) 3 (b.getLsbD 3)) 4 (b.getLsbD 4)) 5 (b.getLsbD 5)) 6 (b.getLsbD 6)) 7 (b.getLsbD 7)
      = b := by
  revert b; decide

/-- The start bit and the eight data bits of a frame (R130, R131). -/
theorem takeFalls_data (b : Byte) {s : State} (h1 : s.tr.edgeEn = true) (h2 : s.tr.link = .idle) :
    takeFalls ((frameBits b).take 9) s =
      { s with tr := { s.tr with rxsh := b, bitn := 8, link := .rxParity } } := by
  simp [frameBits, takeFalls, takeFall, h1, h2, fallIdle, fallRxData]
  exact setBit_all b

/-- The device clocks a requested transmit and acknowledges it (R150 to R154). -/
theorem takeFalls_ack (b : Byte) (c : SendCaller) (s : State) :
    ∃ l, takeFalls (List.replicate 10 true ++ [false]) (requested b c s) =
      { s with
        tr := { s.tr with
          txb := b, edgeEn := true, clkDrv := .rel, dataDrv := .rel, bitn := 8, link := .txEnd,
          tmode := .watchdog, barks := 0 }
        main := .sendDone c
        trace := l } := by
  simp [List.replicate, takeFalls, requested, takeFall, fallTxRequest, fallTxData, fallTxParity, fallTxStop,
    fallTxAck, drive, note]

/-- The whole device side of a transmit (R150 to R157, R107 `EV.ACKTX`). -/
theorem runMoves_ack (b : Byte) (c : SendCaller) {s : State} (h : s.tr.inited = true) :
    ∃ l, runMoves ackMoves (requested b c s) =
      .next { s with
        tr := { s.tr with
          txb := b, edgeEn := true, clkDrv := .rel, dataDrv := .rel, bitn := 0, link := .idle,
          tmode := .off, barks := 0 }
        main := .sendDone c
        trace := l } := by
  obtain ⟨l, hl⟩ := takeFalls_ack b c s
  refine ⟨l, ?_⟩
  rw [ackMoves, runMoves_append (runMoves_fallMoves _ _), hl]
  simp [runMoves, runMove, exec, execEvBidle, busIdle, h]

/-- A push keeps the queue within its capacity (R61). -/
theorem pushed_length {cap : Nat} {rq : List Byte} (b : Byte) (h : rq.length ≤ cap) (h1 : 1 ≤ cap) :
    (pushed cap rq b).length ≤ cap := by
  simp only [pushed, List.length_append, List.length_singleton]
  split <;> simp <;> omega

/-- A push drops the oldest byte exactly when the newest `cap` bytes do (R61). -/
theorem newest_pushed {cap : Nat} {rq : List Byte} (b : Byte) (bs : List Byte) (h : rq.length ≤ cap)
    (h1 : 1 ≤ cap) : newest cap (pushed cap rq b ++ bs) = newest cap (rq ++ b :: bs) := by
  unfold newest pushed
  split
  · next hc =>
    rcases rq with _ | ⟨x, xs⟩
    · simp at hc; omega
    · simp only [List.length_cons] at hc
      simp only [List.tail_cons, List.append_assoc, List.length_append, List.length_cons, List.cons_append]
      rw [show xs.length + (bs.length + 1) + 1 - cap = xs.length + (bs.length + 1) - cap + 1 by omega,
        List.drop_succ_cons]
      simp
  · simp

end Sys2Proof.Machine
end

