-- ==== Sys2Proof/Laws/Session.lean ====
section
/-! SUPPORT. What the Mouse Session's shared operations do, once: the delta assembly, the search for the success code,
and what a step of MAIN leaves alone. -/

namespace Sys2Proof.Machine

/-- The delta is the sign bit and the byte read as nine bits of two's complement (spec/30_encoding.md R85). -/
theorem delta_eq (sign : Bool) (b : Byte) : delta sign b = (BitVec.ofBool sign ++ b : BitVec 9).toInt := by
  revert sign b; decide

/-- The queue behind the first success code (spec/41_session.md R175). -/
theorem afterSuccess_found (ok : Byte) (junk rest : List Byte) (h : ok ∉ junk) :
    afterSuccess ok (junk ++ ok :: rest) = some rest := by
  induction junk with
  | nil => simp [afterSuccess]
  | cons x xs ih =>
    simp only [List.mem_cons, not_or] at h
    simp [afterSuccess, ih h.2, Ne.symm h.1]

/-- No success code: every byte was discarded (R175). -/
theorem afterSuccess_absent (ok : Byte) (bytes : List Byte) (h : ok ∉ bytes) : afterSuccess ok bytes = none := by
  induction bytes with
  | nil => rfl
  | cons x xs ih =>
    simp only [List.mem_cons, not_or] at h
    simp [afterSuccess, ih h.2, Ne.symm h.1]

/-- What the search leaves is no longer than the queue (R175). -/
theorem afterSuccess_length {ok : Byte} {bytes rest : List Byte} (h : afterSuccess ok bytes = some rest) :
    rest.length ≤ bytes.length := by
  induction bytes with
  | nil => simp [afterSuccess] at h
  | cons x xs ih =>
    simp only [afterSuccess] at h
    split at h
    · cases h; simp
    · have := ih h; simp; omega

/-- `S.CMD`'s return writes nothing of the emulator and, of the transport, only the queue (R175, R177, R178). -/
theorem cmdReturn_keeps (k : CmdCaller) (v : BitVec 9) (s : State) :
    (cmdReturn k v s).cfg = s.cfg ∧ (cmdReturn k v s).em = s.em ∧ (cmdReturn k v s).inputs = s.inputs ∧
      ((cmdReturn k v s).tr = s.tr ∨ (cmdReturn k v s).tr = { s.tr with rq := [] }) := by
  unfold cmdReturn
  split <;> simp [holdCmd]

/-- What the end of `S.CMD`'s delay can do: the byte or the sentinel goes to the caller (R177, R254). -/
theorem respStep_eq (k : CmdCaller) (s : State) :
    respStep k s = cmdReturn k (s.tr.rq.head?.elim noResponse responseOf) (responseTaken s) := by
  obtain ⟨cfg, tr, ses, em, main, ret, trace, preempt, inputs⟩ := s
  obtain ⟨_, _, _, _, _, _, _, _, _, rq, _⟩ := tr
  cases rq <;> rfl

/-- When MAIN can go on: it is inside an operation, and in no hold whose condition is false (R70). -/
theorem mainReady_iff (s : State) :
    mainReady s = true ↔
      s.main ≠ .idle ∧ ((∃ b c, s.main = .sendWait b c) ∨ (∃ c, s.main = .sendDone c) → s.tr.link = .idle) := by
  unfold mainReady
  split <;> simp_all

/-- No step of MAIN writes the configuration or the schedule (R7, R70). -/
theorem mainStep_next {s t : State} (h : mainStep s = .next t) : t.cfg = s.cfg ∧ t.inputs = s.inputs := by
  unfold mainStep at h
  split at h
  · cases h; simp
  · cases h; split <;> simp [requestToSend_eq, requested]
  · cases h
    split
    · unfold sendReturn
      split
      · simp
      · unfold bootRetry; split <;> simp
      · simp
      · exact ⟨(cmdReturn_keeps _ _ _).1, (cmdReturn_keeps _ _ _).2.2.1⟩
    · simp
  · cases h
    unfold respStep
    split
    · exact ⟨(cmdReturn_keeps _ _ _).1, (cmdReturn_keeps _ _ _).2.2.1⟩
    · exact ⟨(cmdReturn_keeps _ _ _).1, (cmdReturn_keeps _ _ _).2.2.1⟩
  · cases h
    unfold bootPollStep
    split
    · simp [holdCmd]
    · unfold bootRetry; dsimp only; split <;> simp
  · cases h; simp [bootStatusStep, holdCmd]
  · cases h; simp
  · cases h; simp
  · unfold startupStep at h
    split at h
    · cases h; simp
    · have := zeroOp_next h; exact ⟨this.1, this.2.2.2.1⟩
    · cases h; simp

end Sys2Proof.Machine
end

