-- ==== Sys2Proof/Laws/Sched.lean ====
section
/-! SUPPORT. What the script line `WAIT` can do, in terms of MAIN's own steps (spec/30_encoding.md R106). -/

namespace Sys2Proof.Machine

/-- What `WAIT` answers, read from MAIN's steps: after `n` steps in a row, each taken when MAIN was ready, it is done
when no operation is pending, refused when a hold's condition is false, and stops where the last step does (R106). -/
theorem finishPending_steps (n : Nat) : ∀ (m : Nat) (u : State), n ≤ m →
    (∀ k < n, ∃ v, runMoves (List.replicate k .main) u = .next v ∧ mainReady v = true) →
    (∀ t, runMoves (List.replicate n .main) u = .next t →
      (t.main = .idle → finishPending m u = .next t) ∧
      (t.main ≠ .idle → mainReady t = false → finishPending m u = .refused .waitNotReady)) ∧
    ∀ f, runMoves (List.replicate n .main) u = .fault f → finishPending m u = .fault f := by
  induction n with
  | zero =>
    intro m u _ _
    refine ⟨fun t h => ?_, fun f h => by cases h⟩
    cases h
    refine ⟨fun h => ?_, fun h h2 => ?_⟩ <;> cases m <;> simp [finishPending, h] <;> simp [h2]
  | succ n ih =>
    intro m u hm hk
    obtain ⟨m, rfl⟩ : ∃ m', m = m' + 1 := ⟨m - 1, by omega⟩
    obtain ⟨v, hv, hr⟩ := hk 0 (by omega)
    cases hv
    have hi : u.main ≠ .idle := ((mainReady_iff u).1 hr).1
    simp only [finishPending, hi, hr, if_false, if_true, List.replicate_succ, runMoves, runMove]
    cases hs : mainStep u with
    | next w =>
      dsimp only
      exact ih m w (by omega) fun k hk' => by
        obtain ⟨v, hv, hr⟩ := hk (k + 1) (by omega)
        refine ⟨v, ?_, hr⟩
        simpa [List.replicate_succ, runMoves, runMove, hs] using hv
    | fault f => exact ⟨fun t h => (by cases h), fun f h => (by cases h; rfl)⟩
    | refused r => exact ⟨fun t h => (by cases h), fun f h => (by cases h)⟩

/-- A `WAIT` that is done has finished the pending operation, by MAIN's steps alone (R106). -/
theorem finishPending_next (m : Nat) : ∀ {u t : State}, finishPending m u = .next t →
    t.main = .idle ∧ ∃ n ≤ m, runMoves (List.replicate n .main) u = .next t := by
  induction m with
  | zero =>
    intro u t h
    simp only [finishPending] at h
    split at h <;> cases h
    exact ⟨‹_›, 0, Nat.le_refl _, rfl⟩
  | succ m ih =>
    intro u t h
    simp only [finishPending] at h
    split at h
    · cases h; exact ⟨‹_›, 0, Nat.zero_le _, rfl⟩
    · split at h
      · split at h
        · next w hw =>
          obtain ⟨h1, n, h2, h3⟩ := ih h
          exact ⟨h1, n + 1, by omega, by simpa [List.replicate_succ, runMoves, runMove, hw] using h3⟩
        · cases h
        · cases h
      · cases h

end Sys2Proof.Machine
end

