-- ==== Sys2Proof/Machine/Script.lean ====
section
/-! DEFINITION. The script syntax of spec/30_encoding.md R106 and its pseudo-operations (R107): a line of text is read
into a `ScriptLine`, and that is expanded into entries of the schedule. A script is no part of the hardware; it fixes
one interleaving of the agents (R106). -/

namespace Sys2Proof.Machine

/-- One script line: an operation of R101, a pseudo-operation of R107, or `WAIT` (R106). -/
inductive ScriptLine where
  | op (i : Instr)
  | frame (b : Byte)
  | badPar (b : Byte)
  | badStop (b : Byte)
  | ackTx
  | ticks (n : Nat)
  | flush
  | wait
deriving DecidableEq, Repr

/-- An instruction presented by the agent R101 names. -/
def itemOf (cfg : Config) (i : Instr) : Item := .op (presenterOf i) (encode cfg i)

/-- Falling edges with these data levels (R107). -/
def fallItems (cfg : Config) (bits : List Bool) : List Item := bits.map fun d => itemOf cfg (.evFall d)

/-- `Frame(b)` with bit 9 inverted (R107 `EV.BADPAR`). -/
def badParBits (b : Byte) : List Bool := (frameBits b).take 9 ++ [!oddPar b, true]

/-- `Frame(b)` with bit 10 = 0 (R107 `EV.BADSTOP`). -/
def badStopBits (b : Byte) : List Bool := (frameBits b).take 10 ++ [false]

/-- The device side of one host-to-device transfer (R107 `EV.ACKTX`). -/
def ackTxItems (cfg : Config) : List Item :=
  fallItems cfg (List.replicate 10 true ++ [false]) ++ [itemOf cfg .evBidle]

/-- The entries of the schedule a script line stands for (R106, R107). -/
def ScriptLine.items (cfg : Config) : ScriptLine → List Item
  | .op i => [itemOf cfg i]
  | .frame b => fallItems cfg (frameBits b)
  | .badPar b => fallItems cfg (badParBits b)
  | .badStop b => fallItems cfg (badStopBits b)
  | .ackTx => ackTxItems cfg
  | .ticks n => List.replicate n (itemOf cfg .evTck)
  | .flush => [.flush]
  | .wait => [.wait]

/-- The value of a digit in a base up to 16. -/
def digitOf (base : Nat) (c : Char) : Option Nat :=
  let v :=
    if '0' ≤ c ∧ c ≤ '9' then c.toNat - '0'.toNat
    else if 'a' ≤ c ∧ c ≤ 'f' then c.toNat - 'a'.toNat + 10
    else if 'A' ≤ c ∧ c ≤ 'F' then c.toNat - 'A'.toNat + 10
    else 16
  if v < base then some v else none

/-- The rest of a numeral, most significant digit first. -/
def digitsOf (base acc : Nat) : List Char → Option Nat
  | [] => some acc
  | c :: rest =>
    match digitOf base c with
    | some v => digitsOf base (acc * base + v) rest
    | none => none

/-- A numeral of at least one digit. -/
def numeralOf (base : Nat) (cs : List Char) : Option Nat := if cs = [] then none else digitsOf base 0 cs

/-- An operand (R106): a number, or the mode letter `A` or `J`. -/
inductive Operand where
  | num (v : Int)
  | mode (m : Mode)
deriving DecidableEq, Repr

/-- `operand := decimal | '-' decimal | '0x' hex | '0b' binary | 'A' | 'J'` (R106). -/
def operandOf : List Char → Option Operand
  | ['A'] => some (.mode .analog)
  | ['J'] => some (.mode .joystick)
  | '-' :: cs => (numeralOf 10 cs).map fun v => .num (-(v : Int))
  | '0' :: 'x' :: cs => (numeralOf 16 cs).map fun v => .num v
  | '0' :: 'b' :: cs => (numeralOf 2 cs).map fun v => .num v
  | cs => (numeralOf 10 cs).map fun v => .num v

/-- White space at both ends goes. -/
def trimmed (cs : List Char) : List Char :=
  ((cs.dropWhile (· = ' ')).reverse.dropWhile (· = ' ')).reverse

/-- The pieces of a text between commas. -/
def commaPieces : List Char → List (List Char)
  | [] => [[]]
  | c :: rest =>
    if c = ',' then [] :: commaPieces rest
    else
      match commaPieces rest with
      | [] => [[c]]
      | p :: ps => (c :: p) :: ps

/-- The operands of a line, none when one of them is no operand. -/
def operandsOf (cs : List Char) : Option (List Operand) :=
  if trimmed cs = [] then some []
  else (commaPieces cs).foldr
    (fun p acc => match operandOf (trimmed p), acc with
      | some o, some os => some (o :: os)
      | _, _ => none)
    (some [])

/-- A number in the range of an unsigned field of `n` bits. -/
def unsignedOf (n : Nat) (v : Int) : Option (BitVec n) :=
  if 0 ≤ v ∧ v < 2 ^ n then some (BitVec.ofInt n v) else none

/-- A number in the range of a 9-bit two's-complement field. -/
def signedOf (v : Int) : Option (BitVec 9) :=
  if -256 ≤ v ∧ v < 256 then some (BitVec.ofInt 9 v) else none

/-- A number 0 or 1. -/
def bitOf (v : Int) : Option Bool := if v = 0 then some false else if v = 1 then some true else none

/-- The lines whose mnemonic takes no operand (R101, R107). -/
def plainLine (m : List Char) : Option ScriptLine :=
  if m = "T.INIT".toList then some (.op .tInit)
  else if m = "T.AVAIL".toList then some (.op .tAvail)
  else if m = "T.GET".toList then some (.op .tGet)
  else if m = "T.BUSY".toList then some (.op .tBusy)
  else if m = "EV.TTMR".toList then some (.op .evTtmr)
  else if m = "EV.BIDLE".toList then some (.op .evBidle)
  else if m = "S.BOOT".toList then some (.op .sBoot)
  else if m = "S.POLL".toList then some (.op .sPoll)
  else if m = "EV.SYNC".toList then some (.op .evSync)
  else if m = "EV.TCK".toList then some (.ticks 1)
  else if m = "EV.PULSE".toList then some (.op .evPulse)
  else if m = "EV.ACKTX".toList then some .ackTx
  else if m = "S.FLUSH".toList then some .flush
  else if m = "WAIT".toList then some .wait
  else none

/-- The lines whose mnemonic takes one number (R101, R107). -/
def unaryLine (m : List Char) (v : Int) : Option ScriptLine :=
  if m = "T.ENRX".toList then (bitOf v).map fun e => .op (.tEnrx e)
  else if m = "T.SEND".toList then (unsignedOf 8 v).map fun b => .op (.tSend b)
  else if m = "EV.FALL".toList then (bitOf v).map fun d => .op (.evFall d)
  else if m = "S.SETRES".toList then (unsignedOf 8 v).map fun r => .op (.sSetres r)
  else if m = "E.INIT".toList then (bitOf v).map fun b => .op (.eInit (modeOfBit b))
  else if m = "E.ZERO".toList then (unsignedOf 16 v).map fun z => .op (.eZero z)
  else if m = "EV.FRAME".toList then (unsignedOf 8 v).map .frame
  else if m = "EV.BADPAR".toList then (unsignedOf 8 v).map .badPar
  else if m = "EV.BADSTOP".toList then (unsignedOf 8 v).map .badStop
  else if m = "EV.TCK".toList then (if 0 ≤ v then some (.ticks v.toNat) else none)
  else none

/-- `S.CMD code, expect` (R101). -/
def binaryLine (m : List Char) (a b : Int) : Option ScriptLine :=
  if m = "S.CMD".toList then
    match unsignedOf 8 a, bitOf b with
    | some code, some expect => some (.op (.sCmd code expect))
    | _, _ => none
  else none

/-- `S.DECODE f0, f1, f2` and `E.MOVE dx, dy, btn` (R101). -/
def ternaryLine (m : List Char) (a b c : Int) : Option ScriptLine :=
  if m = "S.DECODE".toList then
    match unsignedOf 8 a, unsignedOf 8 b, unsignedOf 8 c with
    | some f0, some f1, some f2 => some (.op (.sDecode f0 f1 f2))
    | _, _, _ => none
  else if m = "E.MOVE".toList then
    match signedOf a, signedOf b, unsignedOf 3 c with
    | some dx, some dy, some btn => some (.op (.eMove dx dy btn))
    | _, _, _ => none
  else none

/-- The line of a mnemonic and its operands (R106); the mode letters belong to `E.INIT` alone. -/
def lineOf (m : List Char) : List Operand → Option ScriptLine
  | [] => plainLine m
  | [.num v] => unaryLine m v
  | [.mode md] => if m = "E.INIT".toList then some (.op (.eInit md)) else none
  | [.num a, .num b] => binaryLine m a b
  | [.num a, .num b, .num c] => ternaryLine m a b c
  | _ => none

/-- A line without its label and its comment (R106: `[label ':'] … [';' comment]`). -/
def bareLine (cs : List Char) : List Char :=
  let cs := cs.takeWhile (· ≠ ';')
  trimmed (if ':' ∈ cs then (cs.dropWhile (· ≠ ':')).tail else cs)

/-- One line of script text (R106). A line that is none of the syntax answers `none`. -/
def parseLine (text : String) : Option ScriptLine :=
  let cs := bareLine text.toList
  let m := cs.takeWhile (· ≠ ' ')
  match operandsOf (cs.dropWhile (· ≠ ' ')) with
  | some os => lineOf m os
  | none => none

/-- Some lines of a script as a schedule: their entries in the order written (R106). -/
def linesOf (cfg : Config) (lines : List ScriptLine) : List Item := lines.flatMap (·.items cfg)

/-- A whole script as a schedule: its lines, and the end of the run after the last one, where MAIN must have no pending
operation (R106, R285; log 24). -/
def scheduleOf (cfg : Config) (lines : List ScriptLine) : List Item := linesOf cfg lines ++ [.stop]

end Sys2Proof.Machine
end

