-- ==== Sys2Proof/Tests/Slice0.lean ====
section
/-! SUPPORT. The model's own tests, each a named theorem: ill-formed terms that the checks refuse, words written out bit
by bit from spec/30_encoding.md, single steps whose results stand in spec/95_test_vectors.md (the vector is named above
each), and for each obligation with hypotheses a state and operands that meet them. -/

namespace Sys2Proof.Tests

open Sys2Proof Sys2Proof.Machine

/-! The base states of 95_test_vectors -/

/-- After `T.INIT`: MAIN is free and the transport is initialised. -/
def ready : State := { State.reset with tr.inited := true }

/-- `S_T`: after `T.INIT` and `T.ENRX 1`. -/
def sT : State := { ready with tr.edgeEn := true }

/-- `S_T` in a link state, with `BITN` as given. -/
def sLink (l : Link) (n : BitVec 4) : State := { sT with tr.link := l, tr.bitn := n }

/-- `S_A` (Analog) or `S_J` (Joystick): `S_T`, then `E.INIT m`. -/
def sE (m : Mode) : State :=
  { sT with
    em.mode := m, em.syncEn := decide (m = .analog), em.tgtX := 320, em.tgtY := 320, em.inited := true }

/-- `S_R` with these bytes queued: a boot has completed. -/
def sR (q : List Byte) : State := { sE .analog with ses.ready := true, tr.rq := q }

/-- The state an outcome carries, if it is a next state. -/
def after (o : Result) : Option State :=
  match o with
  | .next t => some t
  | .fault _ => none
  | .refused _ => none

/-- The fault an outcome carries. -/
def faultOf (o : Result) : Option Fault :=
  match o with
  | .next _ => none
  | .fault f => some f
  | .refused _ => none

/-! WellFormed: each check refuses an ill-formed term -/

/-- R101: `S.SETRES` takes 0..3. -/
theorem test_wf_setres : Instr.wellFormed .default (.sSetres 3) = true ∧ Instr.wellFormed .default (.sSetres 4) = false := by
  decide

/-- R101: `E.ZERO` takes a value below `2^TCNT_BITS`. -/
theorem test_wf_zero :
    Instr.wellFormed { Config.default with tcntBits := 9 } (.eZero 511) = true ∧
      Instr.wellFormed { Config.default with tcntBits := 9 } (.eZero 512) = false := by
  decide

/-- R90: two PS/2 bytes of one value cannot be told apart. -/
theorem test_wf_bytes :
    Config.default.wireBytesDistinct = true ∧
      Config.wireBytesDistinct { Config.default with rspAck := 0xFF } = false := by
  decide

/-- R8: `T(63) = 451` must be below `SYNC_PERIOD`; the zero point is at least 1; `CNT_MOD` fits six bits. -/
theorem test_config_check :
    configOk .default = true ∧ configOk { Config.default with syncPeriod := 451 } = false ∧
      configOk { Config.default with syncPeriod := 452 } = true ∧
      configOk { Config.default with zeroDefault := 0 } = false ∧
      configOk { Config.default with cntMod := 65 } = false ∧
      configOk { Config.default with scaleDen := 0 } = false := by
  decide

/-! Decoding: one word for each instruction, its bits from R100 to R102 and R90 -/

theorem test_decode_tInit : decodeTableWord 32 0b000000000000000000000000_00000001 = some .tInit := rfl

theorem test_decode_tEnrx : decodeTableWord 32 0b0000000000000000_00000001_00000010 = some (.tEnrx true) := rfl

theorem test_decode_tAvail : decodeTableWord 32 0b000000000000000000000000_00000011 = some .tAvail := rfl

theorem test_decode_tGet : decodeTableWord 32 0b000000000000000000000000_00000100 = some .tGet := rfl

theorem test_decode_tSend : decodeTableWord 32 0b0000000000000000_11110100_00000101 = some (.tSend 0xF4) := rfl

theorem test_decode_tBusy : decodeTableWord 32 0b000000000000000000000000_00000110 = some .tBusy := rfl

theorem test_decode_evFall : decodeTableWord 32 0b0000000000000000_00000001_00010000 = some (.evFall true) := rfl

theorem test_decode_evTtmr : decodeTableWord 32 0b000000000000000000000000_00010001 = some .evTtmr := rfl

theorem test_decode_evBidle : decodeTableWord 32 0b000000000000000000000000_00010010 = some .evBidle := rfl

theorem test_decode_sBoot : decodeTableWord 32 0b000000000000000000000000_00100000 = some .sBoot := rfl

theorem test_decode_sCmd :
    decodeTableWord 32 0b000000000000000_1_11100111_00100001 = some (.sCmd 0xE7 true) := rfl

theorem test_decode_sSetres : decodeTableWord 32 0b0000000000000000_00000011_00100010 = some (.sSetres 3) := rfl

theorem test_decode_sDecode :
    decodeTableWord 32 0b10000000_11111111_00110000_00100011 = some (.sDecode 0x30 0xFF 0x80) := rfl

theorem test_decode_sPoll : decodeTableWord 32 0b000000000000000000000000_00100100 = some .sPoll := rfl

theorem test_decode_eInit : decodeTableWord 32 0b0000000000000000_00000001_00110000 = some (.eInit .joystick) := rfl

theorem test_decode_eZero : decodeTableWord 32 0b00000000_0000000101000000_00110001 = some (.eZero 320) := rfl

/-- E17: dx = -3, dy = 4, btn = 3. -/
theorem test_decode_eMove :
    decodeTableWord 32 0b000_011_000000100_111111101_00110010 = some (.eMove (-3) 4 3) := rfl

theorem test_decode_evSync : decodeTableWord 32 0b000000000000000000000000_01000000 = some .evSync := rfl

theorem test_decode_evTck : decodeTableWord 32 0b000000000000000000000000_01000001 = some .evTck := rfl

theorem test_decode_evPulse : decodeTableWord 32 0b000000000000000000000000_01000010 = some .evPulse := rfl

theorem test_decode_commands :
    [0b11111111, 0b11110101, 0b11110100, 0b11100111, 0b11101000, 0b11101001].map (decodeTableWord 8) =
      [some .cmdReset, some .cmdDisable, some .cmdEnable, some .cmdScale21, some .cmdSetres, some .cmdStatus] := by
  decide

theorem test_decode_responses :
    [0b10101010, 0b11111010, 0b00000000].map (decodeTableWord 8) =
      [some .rspBatOk, some .rspAck, some .rspId] := by
  decide

/-- T20, S15, R103: an unknown opcode, an operand outside its range, a reserved bit, an unnamed byte. -/
theorem test_decode_illegal :
    [0x00000000, 0x00000210, 0x01000001, 0x00000422, 0x20000032].map (decodeTableWord 32) =
        [none, none, none, none, none] ∧ decodeTableWord 8 0x55 = none := by
  decide

/-! One step each -/

/-- T13: `T.INIT` in the middle of a frame. -/
theorem test_tInit :
    (after (exec .tInit { sLink .rxParity 8 with tr.rq := [0x10, 0x11, 0x12] })).map
      (fun t => (t.tr.link, t.tr.rq, t.tr.edgeEn, t.em.syncEn)) = some (.idle, [], false, false) := by decide

/-- T9: `T.ENRX 0` leaves `LINK`; T11: `T.ENRX 1` leaves `Error`. -/
theorem test_tEnrx :
    (after (exec (.tEnrx false) (sLink .rxData 3))).map (fun t => (t.tr.link, t.tr.edgeEn, t.tr.clkDrv)) =
        some (.rxData, false, .low) ∧
      (after (exec (.tEnrx true) { sLink .error 3 with tr.edgeEn := false, tr.tmode := .recovery })).map
        (fun t => (t.tr.link, t.tr.edgeEn, t.tr.tmode, t.tr.bitn)) = some (.idle, true, .off, 0) := by decide

/-- R122's example; T6: before `T.INIT`. -/
theorem test_tAvail :
    (after (exec .tAvail { sT with tr.rq := [0xFA] })).map (·.ret) = some (.bit true) ∧
      faultOf (exec .tAvail State.reset) = some .uninit := by decide

/-- R123's example; T5: the empty queue. -/
theorem test_tGet :
    (after (exec .tGet { sT with tr.rq := [0xAA, 0x00] })).map (fun t => (t.ret, t.tr.rq)) =
        some (.byte 0xAA, [0x00]) ∧ faultOf (exec .tGet sT) = some .getEmpty := by decide

/-- L3-P3: the request-to-send; T18: a send during a receive holds in phase 1. -/
theorem test_tSend :
    (after (exec (.tSend 0xF4) sT)).map (fun t => (t.tr.link, t.tr.txb, t.tr.dataDrv, t.tr.tmode)) =
        some (.txRequest, 0xF4, .low, .watchdog) ∧
      (after (exec (.tSend 0x55) (sLink .rxData 0))).map (fun t => (t.tr.link, t.main)) =
        some (.rxData, .sendWait 0x55 .op) := by decide

/-- R125's example. -/
theorem test_tBusy :
    (after (exec .tBusy (sLink .txAck 8))).map (·.ret) = some (.bit true) ∧
      (after (exec .tBusy sT)).map (·.ret) = some (.bit false) := by decide

/-- R131's example; T1: a start bit of 1. -/
theorem test_evFall :
    (after (exec (.evFall true) { sLink .rxData 7 with tr.rxsh := 0x2A })).map
        (fun t => (t.tr.rxsh, t.tr.bitn, t.tr.link)) = some (0xAA, 8, .rxParity) ∧
      (after (exec (.evFall true) sT)).map (fun t => (t.tr.link, t.tr.clkDrv, t.tr.tmode, t.trace.head?)) =
        some (.error, .low, .recovery, some (.linkError .start .idle)) := by decide

/-- R132's example, R151's example: `TXB = 0xF4`, `BITN = 2` drives `REL`. -/
theorem test_evFall_tx :
    (after (exec (.evFall false) { sLink .rxParity 8 with tr.rxsh := 0xAA })).map (·.tr.link) = some .error ∧
      (after (exec (.evFall false) { sLink .txData 2 with tr.txb := 0xF4 })).map
        (fun t => (t.tr.dataDrv, t.tr.bitn)) = some (.rel, 3) := by decide

/-- R141's example; T14: the third bark. -/
theorem test_evTtmr :
    (after (exec .evTtmr { sLink .error 0 with tr.edgeEn := false, tr.clkDrv := .low, tr.tmode := .recovery })).map
        (fun t => (t.tr.link, t.tr.edgeEn, t.tr.clkDrv)) = some (.idle, true, .rel) ∧
      (after (exec .evTtmr { sLink .txRequest 0 with tr.tmode := .watchdog, tr.barks := 2 })).map
        (fun t => (t.tr.link, t.trace.head?)) = some (.error, some (.linkError .watchdog .txRequest)) := by decide

/-- R157's example; T12: no effect from `Idle`. -/
theorem test_evBidle :
    (after (exec .evBidle { sLink .txEnd 8 with tr.tmode := .watchdog })).map (fun t => (t.tr.link, t.tr.tmode)) =
        some (.idle, .off) ∧ after (exec .evBidle sT) = some sT := by decide

/-- L1-6 step 1: the reset byte goes out first. -/
theorem test_sBoot :
    (after (exec .sBoot sT)).map (fun t => (t.tr.txb, t.main)) = some (0xFF, .sendDone (.bootReset 1)) := by decide

/-- L1-6 step 2: `FA` is discarded, `AA` ends the loop, the id byte stays; steps 9 and 10: the mask of `05`. -/
theorem test_sBoot_steps :
    (after (mainStep { sT with main := .bootPoll 1 0, tr.rq := [0xFA, 0xAA, 0x00] })).map
        (fun t => (t.tr.rq, t.main)) = some ([0x00], .sendWait 0xF5 (.cmd true (.boot .disable))) ∧
      (after (mainStep { sT with main := .bootStatus, tr.rq := [0x05, 0x02, 0x64] })).map
        (fun t => (t.tr.rq, t.main)) = some ([], .sendWait 0xF4 (.cmd true (.boot (.enable 5)))) := by decide

/-- S5: `expect = 0` returns `NONE`; S7: the stale byte is returned. -/
theorem test_sCmd :
    (after (mainStep { sR [] with main := .sendDone (.cmd false .op) })).map (·.ret) = some (.resp 0x100) ∧
      (after (mainStep { sR [0x29, 0xFA] with main := .respDelay .op })).map (fun t => (t.ret, t.tr.rq)) =
        some (.resp 0x029, [0xFA]) := by decide

/-- S13, S14. -/
theorem test_sSetres :
    (after (exec (.sSetres 3) (sR []))).map (·.tr.txb) = some 0xF5 ∧
      faultOf (exec (.sSetres 4) (sR [])) = some .badRes := by decide

/-- S1, S4. -/
theorem test_sDecode :
    (after (exec (.sDecode 0x10 0x00 0x00) State.reset)).map (·.ret) =
        some (.decoded (-256) 0 0 false false) ∧
      (after (exec (.sDecode 0xC8 0x05 0x05) State.reset)).map (·.ret) =
        some (.decoded 5 5 0 true true) := by decide

/-- S10: the third byte of `29 05 FE` moves by (5, -2) with button 0; S12: `BIT3` discards `05`. -/
theorem test_sPoll :
    (after (exec .sPoll { sR [0xFE] with ses.frame0 := 0x29, ses.frame1 := 0x05, ses.frameIdx := 2 })).map
        (fun t => (t.em.cntX, t.em.cntY, t.em.tgtX, t.em.tgtY, t.em.sw0, t.ses.frameIdx)) =
        some (5, 62, 330, 449, .low, 0) ∧
      (after (exec .sPoll { sR [0x05, 0x29] with cfg.resync := .bit3 })).map
        (fun t => (t.tr.rq, t.ses.frameIdx)) = some ([0x29], 0) := by decide

/-- L1-8 step 2: the releases in R210's order. -/
theorem test_eInit :
    (after (exec (.eInit .joystick) { sE .analog with em.sw0 := .low })).map
        (fun t => (t.em.mode, t.em.sw0, t.em.syncEn, t.trace.getLast?)) =
      some (.joystick, .rel, false, some (.emitPot .x .rel)) := by decide

/-- E4, E5, E6. -/
theorem test_eZero :
    faultOf (exec (.eZero 65405) (sE .analog)) = some .config ∧
      (after (exec (.eZero 65404) (sE .analog))).map (·.em.zero) = some 65404 ∧
      (after (exec (.eZero 320) { sE .analog with em.cntX := 48 })).map (·.em.tgtX) = some 420 := by decide

/-- E8, E17. -/
theorem test_eMove :
    (after (exec (.eMove (-256) 255 0) (sE .analog))).map
        (fun t => (t.em.cntX, t.em.cntY, t.em.tgtX, t.em.tgtY)) = some (0, 63, 320, 451) ∧
      (after (exec (.eMove (-3) 4 3) (sE .joystick))).map
        (fun t => ((t.em.joyLeft, t.em.joyUp, t.em.joyRight), t.em.joyFire, t.em.potX, t.em.cntX, t.em.tgtX)) =
        some ((.low, .low, .rel), .low, .low, 61, 447) := by decide

/-- E10, E20. -/
theorem test_evSync :
    (after (exec .evSync { sE .analog with em.tgtX := 330, em.tgtY := 449 })).map
        (fun t => (t.em.potX, t.em.potY, t.em.cmpX, t.em.cmpY, t.em.tcnt, t.em.tcntRun)) =
        some (.low, .low, 330, 449, 0, true) ∧
      after (exec .evSync (sE .joystick)) = some (sE .joystick) := by decide

/-- E12; the counter's wrap (R45). -/
theorem test_evTck :
    (after (exec .evTck
        { sE .analog with em.tcnt := 329, em.tcntRun := true, em.cmpX := 330, em.cmpY := 449, em.potX := .low })).map
        (fun t => (t.em.tcnt, t.em.potX, t.em.potY)) = some (330, .high, .rel) ∧
      (after (exec .evTck { sE .analog with em.tcnt := 65535, em.tcntRun := true })).map (·.em.tcnt) = some 0 := by
  decide

/-- E18: the auxiliary switch is kept; E19: no effect without a running pulse. -/
theorem test_evPulse :
    (after (exec .evPulse { sE .joystick with em.joyLeft := .low, em.potX := .low, em.pulseRun := true })).map
        (fun t => (t.em.joyLeft, t.em.potX, t.em.pulseRun)) = some (.rel, .low, false) ∧
      after (exec .evPulse (sE .joystick)) = some (sE .joystick) := by decide

/-- R90: a command byte is sent. -/
theorem test_commands :
    [Instr.cmdReset, .cmdDisable, .cmdEnable, .cmdScale21, .cmdSetres, .cmdStatus].map
        (fun i => (after (exec i sT)).map (·.tr.txb)) =
      [some 0xFF, some 0xF5, some 0xF4, some 0xE7, some 0xE8, some 0xE9] := by decide

/-- R90, R83: a response byte is received. -/
theorem test_responses :
    [Instr.rspBatOk, .rspAck, .rspId].map (fun i => (after (exec i sT)).map (fun t => (t.tr.rq, t.tr.link))) =
      [some ([0xAA], .idle), some ([0xFA], .idle), some ([0x00], .idle)] := by decide

/-- The frames of 95's table: `0xF4` and `0xAA`; T21: the 17th byte drops the oldest. -/
theorem test_frames :
    frameBits 0xF4 = [false, false, false, true, false, true, true, true, true, false, true] ∧
      frameBits 0xAA = [false, false, true, false, true, false, true, false, true, true, true] ∧
      pushed 2 [0x01, 0x02] 0x99 = [0x02, 0x99] := by decide

/-- R106, R107: script lines, with label, comment and every operand form. -/
theorem test_script :
    parseLine "L1: E.MOVE 5, -2, 0b001 ; a move" = some (.op (.eMove 5 (-2) 1)) ∧
      parseLine "E.INIT J" = some (.op (.eInit .joystick)) ∧ parseLine "EV.FRAME 0xAA" = some (.frame 0xAA) ∧
      parseLine "EV.TCK 119" = some (.ticks 119) ∧ parseLine "T.SEND 256" = none := by decide

/-- R285: a script that ends with `T.SEND` pending is ill-formed; with none, its end state is the state after it. -/
theorem test_script_end :
    scheduleOf .default [.op (.tSend 0xF4)] = [.op .main (.word 0x0000F405), .stop] ∧
      (match step { sT with main := .sendDone .op, inputs := [.stop] } with
        | .refused r => decide (r = .scriptPending)
        | _ => false) = true ∧
      after (step { sT with inputs := [.stop] }) = some sT := by decide

/-- R284: power-on with the listed fields set by hand is no launch state, because `T.INIT` has not run. -/
theorem test_clean_start :
    ¬ CleanStart .analog { State.reset with
      tr.edgeEn := true, ses.ready := true, em.syncEn := true, em.tgtX := 320, em.tgtY := 320 } :=
  fun h => absurd h.initialised.1 (by decide)

/-- The first step after reset performs the word it is given (log 3). -/
theorem test_first_step :
    (after (step (State.reset.withFetchWord 32 0x00000001))).map (fun t => (t.tr.inited, t.inputs)) =
        some (true, []) ∧
      faultOf (step { State.reset with cfg.zeroDefault := 0 }) = some .config := by decide

/-! For each obligation with hypotheses: a state and operands that meet them, at the ends of their ranges -/

theorem witness_InitialisationSequence : configOk .default = true := by decide

theorem witness_EventsBeforeInitialisation :
    State.reset.tr.inited = false ∧ State.reset.tr.edgeEn = false ∧ State.reset.tr.tmode = .off ∧
      State.reset.em.syncEn = false ∧ State.reset.em.tcntRun = false ∧ State.reset.em.pulseRun = false := by decide

theorem witness_UninitialisedOperationsFault :
    (State.reset.main = .idle ∧ State.reset.tr.inited = false ∧ State.reset.em.inited = false) ∧
      (ready.main = .idle ∧ ready.tr.inited = true ∧ ready.ses.ready = false) := by decide

/-- One fault of each kind. -/
theorem witness_FaultsOnlyWhereTheTableSays :
    faultOf (exec .tGet ready) = some .getEmpty ∧ faultOf (exec .tGet State.reset) = some .uninit ∧
      faultOf (exec .sPoll ready) = some .uninit ∧ faultOf (exec (.eMove 0 0 0) ready) = some .uninit ∧
      faultOf (exec .sPoll { ready with ses.ready := true, ses.frameIdx := 2, tr.rq := [0] }) = some .uninit ∧
      faultOf (exec (.eZero 0) ready) = some .config ∧ faultOf (exec (.sSetres 4) ready) = some .badRes := by decide

theorem witness_EventsAlwaysComplete : isMainOp (.evFall true) = false ∧ isMainOp .rspId = false := by decide

theorem witness_HostOperationsNeedFreeMain :
    isMainOp .tInit = true ∧ { State.reset with main := .bootStatus }.main ≠ .idle := by decide

theorem witness_TInitResult : (sLink .rxParity 8).main = .idle := rfl

/-- `readyFor`, for every statement about a transport or session operation. -/
theorem witness_readyFor : readyFor ready := ⟨rfl, rfl⟩

theorem witness_GetTakesOldestByte :
    readyFor { ready with tr.rq := [1, 2] } ∧ { ready with tr.rq := [1, 2] }.tr.rq = 1 :: [2] ∧
      ready.tr.rq = [] := ⟨⟨rfl, rfl⟩, rfl, rfl⟩

/-- Held and free, in phases 1 and 3. -/
theorem witness_SendHoldsAndRequests :
    (readyFor ready ∧ ready.tr.link = .idle) ∧ (readyFor (sLink .rxData 0) ∧ (sLink .rxData 0).tr.link ≠ .idle) ∧
      ({ sT with main := .sendWait 5 .op }.main = .sendWait 5 .op ∧
        { sT with main := .sendWait 5 .op }.tr.link = .idle) ∧
      (∀ c ∈ [SendCaller.op, .bootReset 1, .cmd true .op],
        { sLink .txEnd 8 with main := .sendDone c }.main = .sendDone c ∧
          { sLink .txEnd 8 with main := .sendDone c }.tr.link ≠ .idle) ∧
      ({ sT with main := .sendDone .op }.main = .sendDone .op ∧ sT.tr.link = .idle) :=
  ⟨⟨⟨rfl, rfl⟩, rfl⟩, ⟨⟨rfl, rfl⟩, by decide⟩, ⟨rfl, rfl⟩, by decide, rfl, rfl⟩

theorem witness_EdgesWithoutEffect :
    ready.tr.edgeEn = false ∧ (sLink .txEnd 8).tr.link = .txEnd ∧ (sLink .error 0).tr.link = .error := by decide

theorem witness_StartBitBeginsFrame : sT.tr.edgeEn = true ∧ sT.tr.link = .idle := by decide

/-- `BITN` at 0, 6 and 7. -/
theorem witness_DataBitShiftsIn :
    ∀ n ∈ [0, 6, 7], (sLink .rxData n).tr.edgeEn = true ∧ (sLink .rxData n).tr.link = .rxData ∧
      (sLink .rxData n).tr.bitn.toNat ≤ 7 := by decide

theorem witness_ParityAndStopBits :
    ((sLink .rxParity 8).tr.edgeEn = true ∧ (sLink .rxParity 8).tr.link = .rxParity ∧
        (popcount (sLink .rxParity 8).tr.rxsh + true.toNat) % 2 = 1 ∧
        (popcount (sLink .rxParity 8).tr.rxsh + false.toNat) % 2 ≠ 1) ∧
      ((sLink .rxStop 8).tr.edgeEn = true ∧ (sLink .rxStop 8).tr.link = .rxStop) := by decide

/-- The recovery itself, and in `Error` an instruction that stays there, one that leaves it, and a step of MAIN. -/
theorem witness_RecoveryReturnsToIdle :
    { sLink .error 0 with tr.tmode := .recovery }.tr.tmode = .recovery ∧ (sLink .error 0).tr.link = .error ∧
      after (exec (.evFall true) (sLink .error 0)) ≠ none ∧ after (exec .tInit (sLink .error 0)) ≠ none ∧
      after (mainStep { sLink .error 0 with main := .respDelay .op }) ≠ none := by decide

/-- Each transmit state, `BITN` at 1 and 7. -/
theorem witness_TransmitEdgesDriveData :
    (∀ l ∈ [Link.txRequest, .txParity, .txStop], (sLink l 8).tr.edgeEn = true ∧ (sLink l 8).tr.link = l) ∧
      ∀ n ∈ [1, 6, 7], (sLink .txData n).tr.edgeEn = true ∧ (sLink .txData n).tr.link = .txData ∧
        1 ≤ (sLink .txData n).tr.bitn.toNat ∧ (sLink .txData n).tr.bitn.toNat ≤ 7 := by decide

theorem witness_AcknowledgeAndBusIdle :
    ((sLink .txAck 8).tr.edgeEn = true ∧ (sLink .txAck 8).tr.link = .txAck) ∧
      ((sLink .txEnd 8).tr.inited = true ∧ (sLink .txEnd 8).tr.link = .txEnd) ∧ sT.tr.link ≠ .txEnd := by decide

/-- `BARKS` at `BARK_LIMIT - 2` and `BARK_LIMIT - 1`; the watchdog outside a transmit; the timer off. -/
theorem witness_WatchdogTick :
    (let s := { sLink .txEnd 8 with tr.tmode := .watchdog, tr.barks := 1 };
      s.tr.tmode = .watchdog ∧ s.tr.link.isTx = true ∧ s.tr.barks + 1 < s.cfg.barkLimit) ∧
    (let s := { sLink .txEnd 8 with tr.tmode := .watchdog, tr.barks := 2 };
      s.tr.tmode = .watchdog ∧ s.tr.link.isTx = true ∧ s.cfg.barkLimit ≤ s.tr.barks + 1) ∧
    (let s := { sT with tr.tmode := .watchdog };
      s.tr.tmode = .watchdog ∧ s.tr.link.isTx = false) ∧ sT.tr.tmode = .off := by decide

theorem witness_ReceivedFrameIsQueued : sT.tr.edgeEn = true ∧ sT.tr.link = .idle := by decide

/-- No edge and all ten. -/
theorem witness_TransmitDrivesTheFrame :
    readyFor sT ∧ sT.tr.link = .idle ∧ ([] : List Bool).length ≤ 10 ∧ (List.replicate 10 true).length ≤ 10 :=
  ⟨⟨rfl, rfl⟩, rfl, by decide, by decide⟩

theorem witness_BadFrameIsDroppedAndRecovered :
    sT.tr.edgeEn = true ∧ sT.tr.link = .idle ∧
      ((frameBits 0xAA).take 10 ++ [false], Cause.stop, Link.rxStop) ∈
        [((frameBits 0xAA).take 9 ++ [!oddPar 0xAA], Cause.parity, Link.rxParity),
         ((frameBits 0xAA).take 10 ++ [false], Cause.stop, Link.rxStop)] := by decide

/-- A queue that is full already. -/
theorem witness_QueueKeepsNewestBytes :
    let s := { sT with tr.rq := List.replicate 16 0x55 }
    s.tr.edgeEn = true ∧ s.tr.link = .idle ∧ 1 ≤ s.cfg.rqCap ∧ s.tr.rq.length ≤ s.cfg.rqCap := by decide

theorem witness_GetsReturnInOrder :
    readyFor { sT with tr.rq := [1, 2, 3] } ∧ { sT with tr.rq := [1, 2, 3] }.tr.rq = [1, 2] ++ 3 :: [] :=
  ⟨⟨rfl, rfl⟩, rfl⟩

theorem witness_WatchdogBoundsTheTransmit :
    readyFor sT ∧ sT.tr.link = .idle ∧ 1 ≤ sT.cfg.barkLimit ∧ 2 < sT.cfg.barkLimit :=
  ⟨⟨rfl, rfl⟩, rfl, by decide, by decide⟩

/-- A state with an entry to take. -/
def presented (i : Instr) (s : State) : State := presentNext (encode s.cfg i) s

theorem witness_TransportStepKeepsItsInvariants :
    TransportInv (presented .tInit State.reset) ∧ (after (step (presented .tInit State.reset))).isSome = true := by
  refine ⟨?_, by decide⟩
  constructor <;> decide

theorem witness_DecodeMovementFrame :
    State.reset.main = .idle ∧ ∀ k ∈ [0, 1, 2, 4, 5], (0xC8 : Byte).getLsbD k = (0x00 : Byte).getLsbD k := by decide

theorem witness_CommandProcedure :
    (readyFor sT ∧ sT.tr.link = .idle) ∧ (readyFor (sLink .rxStop 8) ∧ (sLink .rxStop 8).tr.link ≠ .idle) ∧
      { sT with main := .sendDone (.cmd true .op) }.main = .sendDone (.cmd true .op) ∧
      { sT with main := .sendDone (.cmd true (.boot .status)) }.main = .sendDone (.cmd true (.boot .status)) ∧
      { sT with main := .sendDone (.cmd false .op) }.main = .sendDone (.cmd false .op) ∧
      ({ sT with main := .respDelay .op }.main = .respDelay .op ∧ sT.tr.rq = [] ∧
        { sT with tr.rq := [7, 8] }.tr.rq = 7 :: [8]) :=
  ⟨⟨⟨rfl, rfl⟩, rfl⟩, ⟨⟨rfl, rfl⟩, by decide⟩, rfl, rfl, rfl, rfl, rfl, rfl⟩

/-- The resolution codes 3 and 4. -/
theorem witness_SetResolutionSendsItsSequence :
    readyFor sT ∧ (3 : Byte).toNat ≤ 3 ∧ 3 < (4 : Byte).toNat ∧ sT.tr.link = .idle ∧ sT.tr.rq = [] ∧
      1 ≤ sT.cfg.rqCap ∧ (sLink .rxData 0).tr.link ≠ .idle :=
  ⟨⟨rfl, rfl⟩, by decide, by decide, rfl, rfl, by decide, by decide⟩

/-- A poll that finds the code, one that does not, the last one, no poll; each command; the status read of S18. -/
theorem witness_BootResetLoop :
    ({ sT with main := .sendDone (.bootReset 1) }.main = .sendDone (.bootReset 1) ∧ sT.tr.link = .idle ∧
        sT.cfg.bootPolls ≠ 0) ∧
      ({ sT with main := .bootPoll 1 0, tr.rq := [0xFA, 0xAA, 0] }.tr.rq = [0xFA] ++ sT.cfg.rspBatOk :: [0] ∧
        sT.cfg.rspBatOk ∉ ([0xFA] : List Byte)) ∧
      ({ sT with main := .bootPoll 1 0, tr.rq := [0] }.main = .bootPoll 1 0 ∧
        sT.cfg.rspBatOk ∉ ([0] : List Byte) ∧ 0 + 1 < sT.cfg.bootPolls ∧ sT.cfg.bootPolls ≤ 1 + 1) ∧
      { sT with cfg.bootPolls := 0 }.cfg.bootPolls = 0 ∧
      (∀ k ∈ [BootCmd.disable, .scale, .setres, .resByte, .status, .enable 5],
        { sT with main := .respDelay (.boot k) }.main = .respDelay (.boot k)) ∧
      ({ sT with main := .bootStatus }.main = .bootStatus ∧ sT.tr.rq = [] ∧
        { sT with tr.rq := [0x05, 0x64] }.tr.rq = 0x05 :: [0x64]) := by decide

/-- The longest status reply that the queue holds. -/
theorem witness_BootHandshakeReturnsTheMask :
    configOk .default = true ∧ 1 ≤ Config.default.bootPolls ∧
      (List.replicate 14 (0 : Byte)).length + 2 ≤ Config.default.rqCap := by decide

theorem witness_PollAssemblesFrames :
    (readyFor sT ∧ sT.ses.ready = false) ∧
      (readyFor (sR []) ∧ (sR []).ses.ready = true ∧ (sR []).tr.rq = []) ∧
      (let s := { sR [0x05] with cfg.resync := .bit3 };
        readyFor s ∧ s.ses.ready = true ∧ s.tr.rq = 0x05 :: [] ∧ s.ses.frameIdx = 0 ∧ s.cfg.resync = .bit3 ∧
          (0x05 : Byte).getLsbD 3 = false) ∧
      ((sR [0x29]).ses.frameIdx = 0 ∧ (sR [0x29]).cfg.resync = .none ∧ (0x29 : Byte).getLsbD 3 = true) ∧
      { sR [0x29] with ses.frameIdx := 1 }.ses.frameIdx = 1 ∧
      { sR [0x29] with ses.frameIdx := 2 }.ses.frameIdx = 2 :=
  ⟨⟨⟨rfl, rfl⟩, rfl⟩, ⟨⟨rfl, rfl⟩, rfl, rfl⟩, ⟨⟨rfl, rfl⟩, rfl, rfl, rfl, rfl, by decide⟩, ⟨rfl, rfl, by decide⟩, rfl, rfl⟩

/-- A startup table with and without a code and a zero point. -/
def startupWith (c : StartChoice) : State := { sT with cfg.startup := Vector.replicate 8 c, ret := .mask 5 }

theorem witness_StartupMakesItsCallsInOrder :
    (readyFor (startupWith ⟨.analog, none, some 400⟩) ∧ (startupWith ⟨.analog, none, some 400⟩).ret = .mask 5 ∧
        (startupWith ⟨.analog, none, some 400⟩).cfg.startup[(5 : BitVec 3).toFin].zero = some 400) ∧
      ((startupWith ⟨.joystick, none, none⟩).cfg.startup[(5 : BitVec 3).toFin].res = none) ∧
      ((startupWith ⟨.joystick, some 3, none⟩).cfg.startup[(5 : BitVec 3).toFin].res = some 3 ∧
        (3 : Byte).toNat ≤ 3 ∧ (startupWith ⟨.joystick, some 3, none⟩).tr.link = .idle ∧ 3 < (4 : Byte).toNat) ∧
      (zeroWellFormed sT.cfg 400 = true ∧ sT.em.inited = false ∧ zeroWellFormed sT.cfg 0 = false) ∧
      ((sE .analog).em.inited = true ∧ (sE .analog).preempt = false ∧
        (sE .analog).em.cntX.toNat < (sE .analog).cfg.cntMod ∧ { sE .analog with preempt := true }.preempt = true) ∧
      ((sLink .rxData 0).tr.link ≠ .idle ∧
        ∀ k ∈ [ResCmd.disable, .setres, .resByte, .enable], ∀ a ∈ [After.firmware, .startZero 400 .analog],
          { sT with main := .respDelay (.setRes k 3 a) }.main = .respDelay (.setRes k 3 a)) ∧
      (let s := { sE .analog with main := .zeroB (.startInit .analog) };
        s.main = .zeroB (.startInit .analog) ∧ zeroWellFormed s.cfg s.em.zero = true ∧
          s.em.cntY.toNat < s.cfg.cntMod) ∧
      after (exec (.eInit .analog) { sT with main := .idle }) ≠ none :=
  ⟨⟨⟨rfl, rfl⟩, rfl, by decide⟩, by decide, by decide, by decide, by decide, by decide, by decide, by decide⟩

theorem witness_EInitResult : State.reset.main = .idle ∧ zeroWellFormed State.reset.cfg State.reset.em.zero = true := by
  decide

/-- The largest zero point of E5 and the one above it (E4); before and after `E.INIT`; with the pair split. -/
theorem witness_EZeroResult :
    State.reset.main = .idle ∧ zeroWellFormed Config.default 65404 = true ∧
      zeroWellFormed Config.default 65405 = false ∧ State.reset.em.inited = false ∧
      (sE .analog).em.inited = true ∧ (sE .analog).preempt = false ∧
      { sE .analog with em.cntX := 63, em.cntY := 63 }.em.cntX.toNat < Config.default.cntMod ∧
      { sE .analog with preempt := true }.preempt = true ∧
      { sE .analog with main := .zeroB .firmware }.main = .zeroB .firmware ∧
      (0xFFFF : BitVec 16).toNat < 2 ^ Config.default.tcntBits ∧ Config.default.scaleDen ≠ 0 := by decide

theorem witness_AnalogMoveLatchesTargets :
    let s := sE .analog
    s.main = .idle ∧ s.em.inited = true ∧ s.em.mode = .analog ∧ configOk s.cfg = true ∧
      zeroWellFormed s.cfg s.em.zero = true ∧ s.preempt = false ∧ { s with preempt := true }.preempt = true ∧
      { s with main := .moveB 5 }.main = .moveB 5 ∧ s.em.cntY.toNat < s.cfg.cntMod := by decide

theorem witness_JoystickMoveAssertsDirections :
    let s := sE .joystick
    s.main = .idle ∧ s.em.inited = true ∧ s.em.mode = .joystick ∧ configOk s.cfg = true ∧
      zeroWellFormed s.cfg s.em.zero = true := by decide

theorem witness_SyncBetweenTargetWrites :
    let s := { sE .analog with preempt := true }
    s.main = .idle ∧ s.em.inited = true ∧ s.em.mode = .analog ∧ s.em.syncEn = true ∧ s.preempt = true ∧
      configOk s.cfg = true ∧ zeroWellFormed s.cfg s.em.zero = true ∧
      zeroWellFormed s.cfg (400 : BitVec 16).toNat = true ∧ s.em.cntX.toNat < s.cfg.cntMod ∧
      s.em.cntY.toNat < s.cfg.cntMod := by decide

theorem witness_SyncEdgeStartsTheWindow : (sE .analog).em.syncEn = true ∧ (sE .joystick).em.syncEn = false := by decide

theorem witness_CounterTickCompares :
    { sE .analog with em.tcntRun := true }.em.tcntRun = true ∧ (sE .analog).em.mode = .analog ∧
      (sE .analog).em.tcntRun = false := by decide

theorem witness_PulseEndReleasesDirections :
    { sE .joystick with em.pulseRun := true }.em.pulseRun = true ∧ (sE .joystick).em.pulseRun = false := by decide

/-- One tick before the target, the target itself, and the last tick before the counter wraps. -/
theorem witness_PulseWidthIsTheTarget :
    let s := sE .analog
    s.em.syncEn = true ∧ s.em.mode = .analog ∧ 1 ≤ s.em.tgtX ∧ 1 ≤ s.em.tgtY ∧
      ∀ n ∈ [0, 319, 320, 65535], n < 2 ^ s.cfg.tcntBits := by decide

theorem witness_EmulatorInv : EmulatorInv (sE .analog) := by constructor <;> decide

theorem witness_CounterWrapsAround :
    let s := sE .analog
    configOk s.cfg = true ∧ s.main = .idle ∧ s.em.inited = true ∧ s.em.mode = .analog ∧ s.preempt = false := by
  decide

/-- The ends of the counter's range. -/
theorem witness_TargetsFitTheWindow :
    zeroWellFormed .default 320 = true ∧ 0 ≤ 63 ∧ 63 < Config.default.cntMod := by decide

theorem witness_EmulatorStepKeepsItsInvariants :
    EmulatorInv (presented (.eMove 5 (-2) 1) (sE .analog)) ∧
      (after (step (presented (.eMove 5 (-2) 1) (sE .analog)))).isSome = true := by
  refine ⟨?_, by decide⟩
  constructor <;> decide

theorem witness_EmulatorPowerOnMeetsInvariants : configOk .default = true := by decide

/-- Two states that differ in the transport and the session alone. -/
theorem witness_EmulatorIndependentOfTransport :
    let s := sE .analog
    let u := { sE .analog with tr.link := .rxData, tr.rq := [1], ses.ready := true }
    s.cfg = u.cfg ∧ s.em = u.em ∧ s.main = u.main ∧ s.preempt = u.preempt ∧
      after (exec (.eMove 1 1 1) s) ≠ none := by decide

theorem witness_RegistersBelongToTheirWriters :
    after (exec .tInit State.reset) ≠ none ∧ after (exec .tGet (sR [1])) ≠ none ∧
      after (exec .sPoll (sR [1])) ≠ none := by decide

/-- A host operation and an event, each presented by its agent. -/
theorem witness_StepRunsTheDecodedInstruction :
    (let s := presented .tInit State.reset;
      configOk s.cfg = true ∧ s.inputs = .op .main (.word 0x01) :: [] ∧ decode s.cfg (.word 0x01) = .ok .tInit ∧
        Agent.main ∈ agentsOf .tInit ∧ s.main = .idle) ∧
    (let s := { presented .evTtmr State.reset with main := .bootStatus };
      s.inputs = .op .isrTtmr (.word 0x11) :: [] ∧ decode s.cfg (.word 0x11) = .ok .evTtmr ∧
        Agent.isrTtmr ∈ agentsOf .evTtmr ∧ isMainOp .evTtmr = false) := by decide

/-- Each kind of entry; `WAIT` through the end of a delay (one step of MAIN), and at a hold that is closed. -/
theorem witness_ScheduleEntries :
    configOk State.reset.cfg = true ∧ State.reset.inputs = [] ∧
      (∀ it ∈ [Item.main, .preempt, .wait, .flush, .startup, .stop], { ready with inputs := [it] }.inputs = it :: []) ∧
      { ready with main := .sendDone .op }.main = .sendDone .op ∧
      mainReady { ready with main := .respDelay .op } = true ∧
      (after (runMoves (List.replicate 1 .main) { ready with main := .respDelay .op })).map (·.main) =
        some .idle ∧
      (after (step { ready with main := .respDelay .op, inputs := [.wait] })).map (·.main) = some .idle ∧
      (let s := { sLink .txEnd 8 with main := .sendDone .op }; s.main ≠ .idle ∧ mainReady s = false) ∧
      faultOf (runMoves (List.replicate 1 .main) { ready with main := .startup (.startZero 0 .analog) }) =
        some .config ∧
      decode .default (.word 0x03) = .ok .tAvail ∧ isMainOp .tAvail = true ∧ isMainOp .evTck = false ∧
      State.reset.tr.inited = false := by decide

theorem witness_StepChecksAndKeepsTheConfiguration :
    configOk { Config.default with cntMod := 0 } = false ∧ after (step State.reset) = some State.reset := by decide

/-- An illegal word, and a word of MAIN's presented by the device. -/
theorem witness_RefusedCodes :
    configOk State.reset.cfg = true ∧
      { State.reset with inputs := [.op .dev (.word 0)] }.inputs = .op .dev (.word 0) :: [] ∧
      decode .default (.word 0) = .illegal (.unknownOpcode 0) ∧ decode .default (.word 1) = .ok .tInit ∧
      Agent.dev ∉ agentsOf .tInit := by decide

theorem witness_DecodeOfEncode :
    Config.default.wireBytesDistinct = true ∧ Instr.wellFormed .default (.eZero 0xFFFF) = true ∧
      Instr.wellFormed .default (.sSetres 3) = true := by decide

theorem witness_EncodeOfDecode :
    decode .default (.word 0x07FC0532) = .ok (.eMove 5 (-2) 1) ∧ decode .default (.byte 0xFA) = .ok .rspAck := by decide

theorem witness_SampleWordsDecode : Config.default.tcntBits = 16 := rfl

theorem witness_WireBytesAreTransferred :
    readyFor sT ∧ sT.tr.link = .idle ∧ sT.tr.edgeEn = true := ⟨⟨rfl, rfl⟩, rfl, rfl⟩

end Sys2Proof.Tests
end

/-! # Encoding (spec/30_encoding.md): parity, sample words, and which words are legal -/

namespace Sys2Proof

/-! ## Parity (R81) -/

theorem oddPar_toNat (d : Byte) : (Machine.oddPar d).toNat = 1 - Machine.popcount d % 2 := by
  rcases Nat.mod_two_eq_zero_or_one (Machine.popcount d) with h | h <;> simp [Machine.oddPar, h]

/-- Settles O17, from the value of the parity bit and the law of the parity check. -/
theorem oddParityFormula : Obligations.OddParityFormula := by
  intro d p
  have hbit := oddPar_toNat d
  refine ⟨hbit, by omega, ?_⟩
  rw [Machine.parityOk_eq, decide_eq_true_iff]

/-! ## Sample words (R108) -/

/-- R101, R102: a word of `E.ZERO` whose operand is in range decodes to the operation. -/
theorem decode_eZero_word {cfg : Config} {z : BitVec 16} (hz : z.toNat < 2 ^ cfg.tcntBits) :
    decode cfg (.word (0#8 ++ z ++ 0x31#8)) = .ok (.eZero z) := by
  obtain ⟨hop, himm, hreserved⟩ := fields_formatH z 0x31#8
  simp [decode, decodeWord, formatH, inRange, Instr.wellFormed, hop, himm, hreserved, hz]

/-- Settles O59: each word is computed; only the range of `E.ZERO` reads the configuration. -/
theorem sampleWordsDecode : Obligations.SampleWordsDecode := by
  intro cfg hbits
  have hzero : decode cfg (.word 0x00014031) = .ok (.eZero 320) :=
    decode_eZero_word (z := 320#16) (by rw [hbits]; decide)
  exact ⟨rfl, rfl, rfl, rfl, rfl, rfl, rfl, hzero, rfl, rfl, rfl⟩

/-! ## Masks and fields

Every mask of the opcode table covers the opcode and all the bits from some bit `lo` up. Meeting such a mask is thus a
statement about two fields of the word, and those are what the decoder reads. -/

/-- The mask of the opcode and of the reserved bits from `lo` up; from 32 up there are none. -/
def opMask (lo : Nat) : OpWord := BitVec.allOnes 32 <<< lo ||| 0xFF#32

/-- The word has the opcode `op`, and its bits from `lo` up are 0. -/
def meetsRow (w : OpWord) (op lo : Nat) : Prop := (field w 0 8).toNat = op ∧ field w lo (32 - lo) = 0

theorem getLsbD_opMask (lo i : Nat) :
    (opMask lo).getLsbD i = (decide (i < 32) && (decide (lo ≤ i) || decide (i < 8))) := by
  have hbyte : (0xFF#32).getLsbD i = (decide (i < 32) && decide (i < 8)) := by
    rw [← Nat.testBit_two_pow_sub_one (n := 8), ← BitVec.getLsbD_ofNat]
  rw [opMask, BitVec.getLsbD_or, BitVec.getLsbD_shiftLeft, hbyte, BitVec.getLsbD_allOnes]
  grind

theorem and_opMask_eq_iff (w : OpWord) {op lo : Nat} (hop : op < 256) (hlo : 8 ≤ lo) :
    w &&& opMask lo = BitVec.ofNat 32 op ↔ meetsRow w op lo := by
  have hhigh : ∀ i, 8 ≤ i → op.testBit i = false := fun i hi =>
    Nat.testBit_lt_two_pow (hop.trans_le (Nat.pow_le_pow_right (n := 2) (by decide) hi))
  have hopcode : (field w 0 8).toNat = op ↔ field w 0 8 = BitVec.ofNat 8 op := by
    rw [BitVec.toNat_eq, BitVec.toNat_ofNat, Nat.mod_eq_of_lt hop]
  rw [meetsRow, hopcode, BitVec.eq_of_getLsbD_eq_iff, BitVec.eq_of_getLsbD_eq_iff, BitVec.eq_of_getLsbD_eq_iff]
  simp only [BitVec.getLsbD_and, getLsbD_opMask, BitVec.getLsbD_ofNat, field, BitVec.getLsbD_extractLsb']
  constructor
  · intro h
    refine ⟨fun i hi => ?_, fun i hi => ?_⟩
    · have := h i (by omega)
      grind
    · have := h (lo + i) (by omega)
      grind
  · rintro ⟨hlow, hres⟩ i hi
    rcases lt_or_ge i 8 with h8 | h8
    · have := hlow i h8
      grind
    · have := hres (i - lo)
      grind

/-- The rows of R101 whose legality is their mask and match alone: the opcode, and where the reserved bits begin. The
one-bit operands and the resolution code stand below their reserved bits. -/
def maskRows : List (Nat × Nat) :=
  [(0x01, 8), (0x02, 9), (0x03, 8), (0x04, 8), (0x05, 16), (0x06, 8), (0x10, 9), (0x11, 8), (0x12, 8), (0x20, 8),
    (0x21, 17), (0x22, 10), (0x23, 32), (0x24, 8), (0x30, 9), (0x32, 29), (0x40, 8), (0x41, 8), (0x42, 8)]

/-! ## When each format answers an instruction (R100) -/

theorem guarded_ok_iff (p : Prop) [Decidable p] (d : Decoded) (e : DecodeError) :
    (∃ i, (if p then d else .illegal e) = .ok i) ↔ p ∧ ∃ i, d = .ok i := by
  by_cases h : p <;> simp [h]

theorem formatN_ok_iff (w : OpWord) (j : Instr) : (∃ i, formatN w j = .ok i) ↔ field w 8 24 = 0 :=
  (guarded_ok_iff ..).trans (and_iff_left ⟨j, rfl⟩)

theorem formatB_ok_iff (w : OpWord) (k : Byte → Decoded) :
    (∃ i, formatB w k = .ok i) ↔ field w 16 16 = 0 ∧ ∃ i, k (field w 8 8) = .ok i :=
  guarded_ok_iff ..

theorem formatH_ok_iff (w : OpWord) (k : BitVec 16 → Decoded) :
    (∃ i, formatH w k = .ok i) ↔ field w 24 8 = 0 ∧ ∃ i, k (field w 8 16) = .ok i :=
  guarded_ok_iff ..

theorem formatC_ok_iff (w : OpWord) (j : Byte → Bool → Instr) :
    (∃ i, formatC w (fun code expect => .ok (j code expect)) = .ok i) ↔ field w 17 15 = 0 :=
  (guarded_ok_iff ..).trans (and_iff_left ⟨_, rfl⟩)

theorem formatM_ok_iff (w : OpWord) (j : BitVec 9 → BitVec 9 → BitVec 3 → Instr) :
    (∃ i, formatM w (fun dx dy btn => .ok (j dx dy btn)) = .ok i) ↔ field w 29 3 = 0 :=
  (guarded_ok_iff ..).trans (and_iff_left ⟨_, rfl⟩)

theorem inRange_ok_iff (cfg : Config) (j : Instr) : (∃ i, inRange cfg j = .ok i) ↔ j.wellFormed cfg = true :=
  (guarded_ok_iff ..).trans (and_iff_left ⟨j, rfl⟩)

theorem bitOperand_ok_iff (imm : Byte) (k : Bool → Instr) : (∃ i, bitOperand imm k = .ok i) ↔ imm.toNat < 2 := by
  have hlt : imm.toNat < 2 ↔ imm = 0 ∨ imm = 1 := by bv_omega
  rw [hlt]
  by_cases h0 : imm = 0
  · simp [bitOperand, h0]
  · by_cases h1 : imm = 1 <;> simp_all [bitOperand]

/-- An `imm8` below `2 ^ n` under 16 reserved bits: the reserved bits begin at `8 + n`. -/
theorem imm8_lt_two_pow_iff (w : OpWord) {n : Nat} (hn : n ≤ 8) :
    (field w 16 16 = 0 ∧ (field w 8 8).toNat < 2 ^ n) ↔ field w (8 + n) (24 - n) = 0 := by
  have := w.isLt
  simp only [BitVec.toNat_eq, field_toNat]
  interval_cases n <;> simp <;> omega

theorem formatB_byte_ok_iff (w : OpWord) (j : Byte → Instr) :
    (∃ i, formatB w (fun imm => .ok (j imm)) = .ok i) ↔ field w 16 16 = 0 :=
  (formatB_ok_iff ..).trans (and_iff_left ⟨_, rfl⟩)

theorem formatB_bitOperand_ok_iff (w : OpWord) (k : Bool → Instr) :
    (∃ i, formatB w (fun imm => bitOperand imm k) = .ok i) ↔ field w 9 23 = 0 := by
  rw [formatB_ok_iff, bitOperand_ok_iff]
  exact imm8_lt_two_pow_iff w (n := 1) (by decide)

theorem formatB_sSetres_ok_iff (cfg : Config) (w : OpWord) :
    (∃ i, formatB w (fun imm => inRange cfg (.sSetres imm)) = .ok i) ↔ field w 10 22 = 0 := by
  rw [formatB_ok_iff, inRange_ok_iff, Instr.wellFormed, decide_eq_true_iff, ← Nat.lt_succ_iff]
  exact imm8_lt_two_pow_iff w (n := 2) (by decide)

theorem formatH_eZero_ok_iff (cfg : Config) (w : OpWord) :
    (∃ i, formatH w (fun imm => inRange cfg (.eZero imm)) = .ok i) ↔
      field w 24 8 = 0 ∧ (field w 8 16).toNat < 2 ^ cfg.tcntBits := by
  rw [formatH_ok_iff, inRange_ok_iff, Instr.wellFormed, decide_eq_true_iff]

/-! ## The legal words (R103) -/

/-- R101, R103: the decoder answers an instruction exactly when the word meets a row. -/
theorem decodeWord_ok_iff (cfg : Config) (w : OpWord) :
    (∃ i, decodeWord cfg w = .ok i) ↔
      (∃ r ∈ maskRows, meetsRow w r.1 r.2) ∨
        (meetsRow w 0x31 24 ∧ (field w 8 16).toNat < 2 ^ cfg.tcntBits) := by
  have hnone : field w 32 0 = 0#0 := BitVec.eq_of_zero_length rfl
  unfold decodeWord
  split
  case h_21 => simp_all [maskRows, meetsRow]
  all_goals
    rename_i hop
    simp [maskRows, meetsRow, hop, hnone, formatN_ok_iff, formatC_ok_iff, formatF, formatM_ok_iff,
      formatB_byte_ok_iff, formatB_bitOperand_ok_iff, formatB_sSetres_ok_iff, formatH_eZero_ok_iff]

/-- A row as it stands in the table: its mask and its match. -/
def maskMatch (r : Nat × Nat) : OpWord × OpWord := (opMask r.2, BitVec.ofNat 32 r.1)

theorem exists_maskMatch_iff (w : OpWord) :
    (∃ p ∈ maskRows.map maskMatch, w &&& p.1 = p.2) ↔ ∃ r ∈ maskRows, meetsRow w r.1 r.2 := by
  have hbounds : ∀ r ∈ maskRows, r.1 < 256 ∧ 8 ≤ r.2 := by decide
  simp only [List.mem_map, exists_exists_and_eq_and]
  refine exists_congr fun r => and_congr_right fun hr => ?_
  obtain ⟨hop, hlo⟩ := hbounds r hr
  exact and_opMask_eq_iff w hop hlo

/-- Settles O56: the table's masks and matches are those of `maskRows` and of `E.ZERO`, and they are what decoding
asks of the fields. -/
theorem illegalWordsExactly : Obligations.IllegalWordsExactly := by
  intro cfg w
  have himm : (field w 8 16).toNat = w.toNat / 256 % 65536 := field_toNat w 8 16
  refine (decodeWord_ok_iff cfg w).trans ?_
  rw [← exists_maskMatch_iff, ← and_opMask_eq_iff w (by decide) (by decide), himm]
  rfl

end Sys2Proof

/-! # Transport (spec/40_transport.md): the operations T.*, the edges, the timer and the recovery -/

namespace Sys2Proof.Machine

/-! ## Initialisation, enabling, status and the queue (R120 to R125) -/

/-- The state that `T.INIT` leaves, field by field (R120). -/
def initialised (s : State) : State :=
  { s with
    tr := { clkDrv := .rel, dataDrv := .rel, link := .idle, rxsh := 0, bitn := 0, txb := 0,
            edgeEn := false, tmode := .off, barks := 0, rq := [], inited := true }
    em.syncEn := false
    main := .idle
    ret := .unit
    trace := .drive .data .rel :: .drive .clk .rel :: s.trace }

theorem exec_tInit {s : State} (hfree : s.main = .idle) : exec .tInit s = .next (initialised s) := by
  change execTInit s = _
  exact onMain_free hfree _

/-- Settles O8: `initialised` has MAIN free, so the second `T.INIT` runs too and finds every field as it leaves it. -/
theorem tInitResult : Obligations.TInitResult :=
  ⟨fun _ => rfl, fun s hfree =>
    ⟨initialised s, exec_tInit hfree, rfl, rfl, rfl, _, exec_tInit rfl, rfl, rfl, rfl⟩⟩

/-- Settles O9: after the guard, each argument's writes are those of R121. -/
theorem enableReceiveResult : Obligations.EnableReceiveResult :=
  ⟨fun _ => ⟨rfl, rfl⟩, fun _ hready => ⟨transportOp_ready hready _, transportOp_ready hready _⟩⟩

/-- Settles O10: after the guard, each operation only returns its status output. -/
theorem statusReadsChangeNothing : Obligations.StatusReadsChangeNothing :=
  ⟨fun _ => ⟨rfl, rfl⟩, fun _ hready => ⟨transportOp_ready hready _, transportOp_ready hready _⟩⟩

/-- Settles O11, by the two cases of the queue. -/
theorem getTakesOldestByte : Obligations.GetTakesOldestByte := by
  refine ⟨fun _ => rfl, fun s b rest hready hrq => ?_, fun s hready hrq => ?_⟩
  all_goals
    refine (transportOp_ready hready _).trans ?_
    simp only [hrq, finish]

/-! ## The two holds of `T.SEND` (R124) -/

/-- R101, R102: the words of `T.SEND`. -/
theorem decode_tSend_word (cfg : Config) (b : Byte) :
    decode cfg (.word (0#16 ++ b ++ 0x05#8)) = .ok (.tSend b) := by
  obtain ⟨hop, himm, hreserved⟩ := fields_formatB b 0x05#8
  simp [decode, decodeWord, formatB, hop, himm, hreserved]

theorem exec_tSend {s : State} (hready : readyFor s) (b : Byte) :
    exec (.tSend b) s = .next (startSend b .op s) :=
  transportOp_ready hready _

theorem mainStep_sendWait {s : State} {b : Byte} {c : SendCaller} (hmain : s.main = .sendWait b c) :
    mainStep s = .next (if s.tr.link = .idle then requested b c s else s) := by
  simp [mainStep, hmain, requestToSend_eq]

theorem mainStep_sendDone {s : State} {c : SendCaller} (hmain : s.main = .sendDone c) :
    mainStep s = .next (if s.tr.link = .idle then sendReturn c s else s) := by
  simp [mainStep, hmain]

/-- Settles O12: the call by `startSend`, each hold by MAIN's step in it. -/
theorem sendHoldsAndRequests : Obligations.SendHoldsAndRequests := by
  refine ⟨decode_tSend_word, fun s b hready => ⟨fun hidle => ?_, fun hbusy => ?_⟩,
    fun s b c hmain => ⟨fun hidle => ?_, fun hbusy => ?_⟩, fun s c hmain hbusy => ?_, fun s hmain hidle => ?_⟩
  · rw [exec_tSend hready, startSend_idle hidle]
  · rw [exec_tSend hready, startSend_held hbusy]
    rfl
  · rw [mainStep_sendWait hmain, if_pos hidle]
  · rw [mainStep_sendWait hmain, if_neg hbusy]
  · rw [mainStep_sendDone hmain, if_neg hbusy]
  · rw [mainStep_sendDone hmain, if_pos hidle]
    rfl

/-! ## One falling edge in each link state (R126) -/

theorem exec_evFall (d : Bool) (s : State) : exec (.evFall d) s = .next (takeFall d s) := rfl

theorem takeFall_disarmed {s : State} (hoff : s.tr.edgeEn = false) (d : Bool) : takeFall d s = s := by
  simp [takeFall, hoff]

theorem takeFall_txEnd {s : State} (hlink : s.tr.link = .txEnd) (d : Bool) : takeFall d s = s := by
  simp [takeFall, hlink]

theorem takeFall_error {s : State} (hlink : s.tr.link = .error) (d : Bool) : takeFall d s = s := by
  simp [takeFall, hlink]

section Armed

variable {s : State} (harm : s.tr.edgeEn = true) (d : Bool)
include harm

theorem takeFall_idle (hlink : s.tr.link = .idle) : takeFall d s = fallIdle d s := by
  simp [takeFall, harm, hlink]

theorem takeFall_rxData (hlink : s.tr.link = .rxData) : takeFall d s = fallRxData d s := by
  simp [takeFall, harm, hlink]

theorem takeFall_rxParity (hlink : s.tr.link = .rxParity) : takeFall d s = fallRxParity d s := by
  simp [takeFall, harm, hlink]

theorem takeFall_rxStop (hlink : s.tr.link = .rxStop) : takeFall d s = fallRxStop d s := by
  simp [takeFall, harm, hlink]

theorem takeFall_txRequest (hlink : s.tr.link = .txRequest) : takeFall d s = fallTxRequest s := by
  simp [takeFall, harm, hlink]

theorem takeFall_txData (hlink : s.tr.link = .txData) : takeFall d s = fallTxData s := by
  simp [takeFall, harm, hlink]

theorem takeFall_txParity (hlink : s.tr.link = .txParity) : takeFall d s = fallTxParity s := by
  simp [takeFall, harm, hlink]

theorem takeFall_txStop (hlink : s.tr.link = .txStop) : takeFall d s = fallTxStop s := by
  simp [takeFall, harm, hlink]

theorem takeFall_txAck (hlink : s.tr.link = .txAck) : takeFall d s = fallTxAck d s := by
  simp [takeFall, harm, hlink]

end Armed

/-- Settles O13, one law of the edge for each of the three cases. -/
theorem edgesWithoutEffect : Obligations.EdgesWithoutEffect := by
  intro s d hcase
  rw [exec_evFall]
  obtain hoff | hend | herror := hcase
  · rw [takeFall_disarmed hoff]
  · rw [takeFall_txEnd hend]
  · rw [takeFall_error herror]

/-! ## Receiving a frame (R130 to R133) -/

/-- The eighth data bit is the one counted from `BITN = 7`; the counter of four bits does not wrap there (R131, R151). -/
theorem bitn_add_one_eq_eight_iff (n : BitVec 4) : n + 1#4 = 8#4 ↔ n.toNat = 7 := by bv_omega

/-- Settles O14: the edge in `Idle`, at each level of DATA. -/
theorem startBitBeginsFrame : Obligations.StartBitBeginsFrame := by
  intro s harm hlink
  simp only [exec_evFall, takeFall_idle harm _ hlink]
  exact ⟨rfl, rfl⟩

/-- Settles O15: the byte is `setBit` at `BITN`, and the link state goes by whether the bit was the eighth. -/
theorem dataBitShiftsIn : Obligations.DataBitShiftsIn := by
  intro s d harm hlink hbitn
  refine ⟨setBit s.tr.rxsh s.tr.bitn.toNat d, fun k hk => setBit_getLsbD _ (by omega) d hk, ?_, by bv_omega⟩
  rw [exec_evFall, takeFall_rxData harm d hlink]
  by_cases hlast : s.tr.bitn.toNat = 7
  · simp [fallRxData, bitn_add_one_eq_eight_iff, hlast]
  · simp [fallRxData, bitn_add_one_eq_eight_iff, hlast, hlink]

/-- Settles O16: the parity bit by its check, the stop bit at each level of DATA. -/
theorem parityAndStopBits : Obligations.ParityAndStopBits := by
  refine ⟨fun s d harm hlink => ?_, fun s harm hlink => ?_⟩
  · simp only [exec_evFall, takeFall_rxParity harm d hlink, fallRxParity, parityOk, enterError_eq]
    exact ⟨fun hodd => by simp [hodd], fun heven => by simp [heven]⟩
  · simp only [exec_evFall, takeFall_rxStop harm _ hlink]
    exact ⟨rfl, rfl⟩

/-! ## Transmitting a frame (R150 to R157) -/

/-- R151: after the data bit that `BITN` names, the link state goes by whether it was the eighth. -/
theorem fallTxData_eq {s : State} (hlink : s.tr.link = .txData) :
    fallTxData s = { s with
      tr := { s.tr with
        dataDrv := drvOfBit (s.tr.txb.getLsbD s.tr.bitn.toNat), bitn := s.tr.bitn + 1,
        link := if s.tr.bitn.toNat = 7 then .txParity else .txData }
      trace := .drive .data (drvOfBit (s.tr.txb.getLsbD s.tr.bitn.toNat)) :: s.trace } := by
  by_cases hlast : s.tr.bitn.toNat = 7
  · simp [fallTxData, bitn_add_one_eq_eight_iff, hlast, drive, note]
  · simp [fallTxData, bitn_add_one_eq_eight_iff, hlast, hlink, drive, note]

/-- Settles O19, one law of the edge for each transmit state. -/
theorem transmitEdgesDriveData : Obligations.TransmitEdgesDriveData := by
  intro s d harm
  rw [exec_evFall]
  refine ⟨fun hlink => ?_, fun hlink _ _ => ?_, fun hlink => ?_, fun hlink => ?_⟩
  · rw [takeFall_txRequest harm d hlink]
    rfl
  · rw [takeFall_txData harm d hlink, fallTxData_eq hlink]
    rfl
  · rw [takeFall_txParity harm d hlink]
    rfl
  · rw [takeFall_txStop harm d hlink]
    rfl

theorem exec_evBidle (s : State) : exec .evBidle s = .next (busIdle s) := rfl

theorem busIdle_of_ne_txEnd {s : State} (hlink : s.tr.link ≠ .txEnd) : busIdle s = s := by
  simp [busIdle, hlink]

/-- Settles O20: the acknowledge at each level of DATA, and the end of the transmit by whether `LINK` is `TxEnd`. -/
theorem acknowledgeAndBusIdle : Obligations.AcknowledgeAndBusIdle := by
  refine ⟨fun _ => rfl, fun s harm hlink => ?_, fun s hinit hlink => ?_, fun s hlink => ?_⟩
  · simp only [exec_evFall, takeFall_txAck harm _ hlink]
    exact ⟨rfl, rfl⟩
  · rw [exec_evBidle, busIdle, if_pos ⟨hinit, hlink⟩]
  · rw [exec_evBidle, busIdle_of_ne_txEnd hlink]

/-! ## The transport timer (R141, R160, R161) -/

theorem exec_evTtmr (s : State) : exec .evTtmr s = .next (timerTick s) := rfl

theorem timerTick_off {s : State} (hmode : s.tr.tmode = .off) : timerTick s = s := by
  simp [timerTick, hmode]

theorem timerTick_recovery {s : State} (hmode : s.tr.tmode = .recovery) : timerTick s = recover s := by
  simp [timerTick, hmode]

theorem timerTick_watchdog {s : State} (hmode : s.tr.tmode = .watchdog) : timerTick s = bark s := by
  simp [timerTick, hmode]

theorem bark_not_isTx {s : State} (htx : s.tr.link.isTx = false) :
    bark s = { s with tr.tmode := .off } := by simp [bark, htx]

/-- R160: the tick that reaches `BARK_LIMIT`. The error entry clears the counter that the tick had raised. -/
theorem bark_limit {s : State} (htx : s.tr.link.isTx = true) (hlimit : s.cfg.barkLimit ≤ s.tr.barks + 1) :
    bark s = errored .watchdog s := by
  simp [bark, htx, hlimit, enterError_eq, errored]

theorem bark_below_limit {s : State} (htx : s.tr.link.isTx = true) (hlimit : s.tr.barks + 1 < s.cfg.barkLimit) :
    bark s = { s with tr.barks := s.tr.barks + 1 } := by
  simp [bark, htx, hlimit]

/-- Settles O21: the three cases of a watchdog tick, and the timer that is off. -/
theorem watchdogTick : Obligations.WatchdogTick := by
  refine ⟨fun s hmode => ?_, fun s hmode => ?_⟩
  · rw [exec_evTtmr, timerTick_watchdog hmode]
    refine ⟨fun htx hlimit => ?_, fun htx hlimit => ?_, fun htx => ?_⟩
    · rw [bark_below_limit htx hlimit]
    · rw [bark_limit htx hlimit]
    · rw [bark_not_isTx htx]
  · rw [exec_evTtmr, timerTick_off hmode]

/-! ## The exits from `Error` (R141)

The operations that never write `LINK` have a law that says so. Those that send write it only from `Idle`. -/

/-- A call of `T.SEND` in a state that is not `Idle` leaves the transport alone: MAIN holds. -/
theorem startSend_tr {s : State} (hbusy : s.tr.link ≠ .idle) (b : Byte) (c : SendCaller) :
    (startSend b c s).tr = s.tr := by
  rw [startSend_held hbusy, holdSend_tr]

/-- `S.CMD`'s return leaves `LINK` alone. -/
theorem cmdReturn_link (k : CmdCaller) (v : BitVec 9) (s : State) : (cmdReturn k v s).tr.link = s.tr.link := by
  obtain ⟨-, -, -, htr | htr⟩ := cmdReturn_keeps k v s <;> rw [htr]

theorem respStep_link (k : CmdCaller) (s : State) : (respStep k s).tr.link = s.tr.link := by
  rw [respStep_eq, cmdReturn_link]
  rfl

theorem bootPollStep_link (n p : Nat) (s : State) : (bootPollStep n p s).tr.link = s.tr.link := by
  unfold bootPollStep
  split
  · rfl
  · dsimp only; split <;> rfl

theorem startupStep_tr {a : After} {s t : State} (h : startupStep a s = .next t) : t.tr = s.tr := by
  cases a with
  | firmware => cases h; rfl
  | startZero z m => exact (zeroOp_next h).2.1
  | startInit m => cases h; simp

/-- Only from `Idle` does a step of MAIN inside an operation change `LINK`: the holds of `T.SEND` wait for it (R124), and
every other step leaves `LINK` alone. -/
theorem mainStep_link {s t : State} (h : mainStep s = .next t) : t.tr.link = s.tr.link ∨ s.tr.link = .idle := by
  refine or_iff_not_imp_right.2 fun hbusy => ?_
  cases hmain : s.main with
  | idle => rw [mainStep, hmain] at h; cases h; rfl
  | sendWait b c => rw [mainStep_sendWait hmain, if_neg hbusy] at h; cases h; rfl
  | sendDone c => rw [mainStep_sendDone hmain, if_neg hbusy] at h; cases h; rfl
  | respDelay k => rw [mainStep, hmain] at h; cases h; exact respStep_link k s
  | bootPoll n p => rw [mainStep, hmain] at h; cases h; exact bootPollStep_link n p s
  | bootStatus => rw [mainStep, hmain] at h; cases h; rfl
  | moveB btn => rw [mainStep, hmain] at h; cases h; rw [finish_tr, analogMoveB_tr]
  | zeroB a => rw [mainStep, hmain] at h; cases h; rw [goOn_tr, latchY_tr]
  | startup a => rw [mainStep, hmain] at h; rw [startupStep_tr h]

theorem setResOp_tr {r : Byte} {a : After} {s t : State} (hbusy : s.tr.link ≠ .idle)
    (h : setResOp r a s = .next t) : t.tr = s.tr := by
  unfold setResOp at h
  split at h
  · cases h
  · cases h
    exact startSend_tr hbusy ..

theorem frameByte_tr {b : Byte} {s t : State} (h : frameByte b s = .next t) : t.tr = s.tr := by
  unfold frameByte at h
  split at h
  · cases h; rfl
  · cases h; rfl
  · exact (moveOp_next h).2.1

/-- `S.POLL` takes at most a byte off the queue. -/
theorem execSPoll_link {s t : State} (h : execSPoll s = .next t) : t.tr.link = s.tr.link := by
  obtain ⟨-, -, hbody⟩ := transportOp_next h
  split at hbody
  · split at hbody
    · cases hbody; rfl
    · dsimp only at hbody
      split at hbody
      · cases hbody; rfl
      · rw [frameByte_tr hbody]
  · cases hbody

theorem execTGet_link {s t : State} (h : execTGet s = .next t) : t.tr.link = s.tr.link := by
  obtain ⟨-, -, hbody⟩ := transportOp_next h
  split at hbody
  · cases hbody
  · cases hbody; rfl

theorem execSDecode_tr {f0 f1 f2 : Byte} {s t : State} (h : execSDecode f0 f1 f2 s = .next t) : t.tr = s.tr := by
  obtain ⟨-, hbody⟩ := onMain_next h
  cases hbody
  rfl

theorem execEInit_tr {m : Mode} {s t : State} (h : execEInit m s = .next t) : t.tr = s.tr := by
  obtain ⟨-, hbody⟩ := onMain_next h
  cases hbody
  rw [finish_tr, initEmulator_tr]

/-- An operation that begins with a call of `T.SEND`, whose byte may be read from the state, when not `Idle`. -/
theorem transportOp_startSend_tr {b : State → Byte} {c : SendCaller} {s t : State} (hbusy : s.tr.link ≠ .idle)
    (h : transportOp s (fun s => .next (startSend (b s) c s)) = .next t) : t.tr = s.tr := by
  obtain ⟨-, -, hbody⟩ := transportOp_next h
  cases hbody
  exact startSend_tr hbusy (b s) c

theorem takeFalls_error (ds : List Bool) {s : State} (herror : s.tr.link = .error) : takeFalls ds s = s := by
  induction ds with
  | nil => rfl
  | cons d ds ih => rw [takeFalls_cons, takeFall_error herror, ih]

/-- In `Error` the timer recovers, or leaves `LINK` alone: a watchdog outside a transmit only turns itself off. -/
theorem timerTick_error {s : State} (herror : s.tr.link = .error) :
    (timerTick s).tr.link = .error ∨ s.tr.tmode = .recovery := by
  cases hmode : s.tr.tmode with
  | off => exact .inl (by rw [timerTick_off hmode, herror])
  | recovery => exact .inr rfl
  | watchdog =>
    have htx : s.tr.link.isTx = false := by rw [herror]; rfl
    exact .inl (by rw [timerTick_watchdog hmode, bark_not_isTx htx]; exact herror)

/-- R141: what takes `LINK` out of `Error`, over all instructions. -/
theorem exec_error_exits {i : Instr} {s t : State} (herror : s.tr.link = .error) (h : exec i s = .next t) :
    t.tr.link = .error ∨ i = .tInit ∨ i = .tEnrx true ∨ (i = .evTtmr ∧ s.tr.tmode = .recovery) := by
  have hbusy : s.tr.link ≠ .idle := by rw [herror]; decide
  cases i with
  | tInit => exact .inr (.inl rfl)
  | tEnrx e =>
    cases e with
    | true => exact .inr (.inr (.inl rfl))
    | false => obtain ⟨-, -, hbody⟩ := transportOp_next h; cases hbody; exact .inl herror
  | evTtmr => cases h; exact (timerTick_error herror).imp_right fun hmode => .inr (.inr ⟨rfl, hmode⟩)
  | tAvail | tBusy => obtain ⟨-, -, hbody⟩ := transportOp_next h; cases hbody; exact .inl herror
  | tGet => exact .inl ((execTGet_link h).trans herror)
  | tSend | sBoot | sCmd | cmdReset | cmdDisable | cmdEnable | cmdScale21 | cmdSetres | cmdStatus =>
    exact .inl (by rw [transportOp_startSend_tr hbusy h, herror])
  | evFall d => cases h; exact .inl (by rw [takeFall_error herror, herror])
  | rspBatOk | rspAck | rspId => cases h; exact .inl (by rw [takeFalls_error _ herror, herror])
  | evBidle => cases h; exact .inl (by rw [busIdle_of_ne_txEnd (by rw [herror]; decide), herror])
  | sSetres r =>
    obtain ⟨-, -, hbody⟩ := transportOp_next h
    exact .inl (by rw [setResOp_tr hbusy hbody, herror])
  | sDecode => exact .inl (by rw [execSDecode_tr h, herror])
  | sPoll => exact .inl ((execSPoll_link h).trans herror)
  | eInit m => exact .inl (by rw [execEInit_tr h, herror])
  | eZero z => exact .inl (by rw [(zeroOp_next (onMain_next h).2).2.1, herror])
  | eMove dx dy btn => exact .inl (by rw [(moveOp_next (onMain_next h).2).2.1, herror])
  | evSync => cases h; exact .inl (by rw [syncEdge_tr, herror])
  | evTck => cases h; exact .inl (by rw [counterTick_tr, herror])
  | evPulse => cases h; exact .inl (by rw [pulseEnd_tr, herror])

/-- Settles O18: the recovery tick, and the laws of what instructions and MAIN's steps do to `LINK`. -/
theorem recoveryReturnsToIdle : Obligations.RecoveryReturnsToIdle := by
  refine ⟨fun _ => rfl, fun s hmode => ?_, fun i s t herror h => exec_error_exits herror h,
    fun s t herror h => ?_⟩
  · rw [exec_evTtmr, timerTick_recovery hmode]
    rfl
  · have hbusy : s.tr.link ≠ .idle := by rw [herror]; decide
    rw [(mainStep_link h).resolve_right hbusy, herror]

end Sys2Proof.Machine

/-! # Mouse session (spec/41_session.md): frame decoding, `S.CMD` and `S.POLL` -/

namespace Sys2Proof.Machine

/-! ## `S.DECODE` (R185, R85, R86) -/

/-- R101, R102: the words of `S.DECODE`. -/
theorem decode_sDecode_word (cfg : Config) (f0 f1 f2 : Byte) :
    decode cfg (.word (f2 ++ f1 ++ f0 ++ 0x23#8)) = .ok (.sDecode f0 f1 f2) := by
  obtain ⟨hop, hf0, hf1, hf2⟩ := fields_formatF f2 f1 f0 0x23#8
  simp [decode, decodeWord, formatF, hop, hf0, hf1, hf2]

theorem exec_sDecode {s : State} (hfree : s.main = .idle) (f0 f1 f2 : Byte) :
    exec (.sDecode f0 f1 f2) s = .next (finish
      (.decoded (decodeDx f0 f1) (decodeDy f0 f2) (buttons f0) (f0.getLsbD 6) (f0.getLsbD 7)) s) := by
  change execSDecode f0 f1 f2 s = _
  exact onMain_free hfree _

theorem delta_bounds (sign : Bool) (b : Byte) : -256 ≤ delta sign b ∧ delta sign b ≤ 255 := by
  have := b.isLt
  cases sign <;> simp only [delta, Bool.false_eq_true, ↓reduceIte] <;> omega

theorem buttons_getLsbD (f0 : Byte) {k : Nat} (hk : k < 3) : (buttons f0).getLsbD k = f0.getLsbD k := by
  simp [buttons, hk]

/-- The status byte is read only at the signs and at the three buttons. -/
theorem decode_eq_of_bits {f0 g0 : Byte} (hbits : ∀ k ∈ [0, 1, 2, 4, 5], g0.getLsbD k = f0.getLsbD k)
    (f1 f2 : Byte) :
    decodeDx g0 f1 = decodeDx f0 f1 ∧ decodeDy g0 f2 = decodeDy f0 f2 ∧ buttons g0 = buttons f0 := by
  refine ⟨by rw [decodeDx, decodeDx, hbits 4 (by decide)], by rw [decodeDy, decodeDy, hbits 5 (by decide)], ?_⟩
  refine BitVec.eq_of_getLsbD_eq fun k hk => ?_
  rw [buttons_getLsbD g0 hk, buttons_getLsbD f0 hk]
  exact hbits k (by simp only [List.mem_cons]; omega)

/-- Settles O30: the values are those of `delta` and `buttons`, and their laws give the other readings. -/
theorem decodeMovementFrame : Obligations.DecodeMovementFrame := by
  refine ⟨decode_sDecode_word, fun s f0 f1 f2 hfree => ?_⟩
  refine ⟨decodeDx f0 f1, decodeDy f0 f2, buttons f0, exec_sDecode hfree f0 f1 f2, rfl, rfl, delta_eq .., delta_eq ..,
    delta_bounds .., delta_bounds .., fun k hk => buttons_getLsbD f0 hk, fun g0 hbits => ?_⟩
  obtain ⟨hdx, hdy, hbtn⟩ := decode_eq_of_bits hbits f1 f2
  rw [exec_sDecode hfree, hdx, hdy, hbtn]
  rfl

/-! ## `S.CMD` (R177) -/

/-- R101, R102: the words of `S.CMD`. -/
theorem decode_sCmd_word (cfg : Config) (code : Byte) (expect : Bool) :
    decode cfg (.word (0#15 ++ BitVec.ofBool expect ++ code ++ 0x21#8)) = .ok (.sCmd code expect) := by
  obtain ⟨hop, hcode, hexpect, hreserved⟩ := fields_formatC (BitVec.ofBool expect) code 0x21#8
  have hbit : (BitVec.ofBool expect == 1#1) = expect := by cases expect <;> rfl
  simp [decode, decodeWord, formatC, hop, hcode, hexpect, hreserved, hbit]

theorem exec_sCmd {s : State} (hready : readyFor s) (code : Byte) (expect : Bool) :
    exec (.sCmd code expect) s = .next (startSend code (.cmd expect .op) s) :=
  transportOp_ready hready _

theorem mainStep_respDelay {s : State} {k : CmdCaller} (hmain : s.main = .respDelay k) :
    mainStep s = .next (respStep k s) := by
  simp only [mainStep, hmain]

/-- R177, R254: with nothing queued, `S.CMD` returns the sentinel and records the timeout. -/
theorem respStep_empty {s : State} (hrq : s.tr.rq = []) (k : CmdCaller) :
    respStep k s = cmdReturn k noResponse (note .cmdTimeout s) := by
  simp only [respStep, hrq]

/-- R177: `S.CMD` takes the oldest queued byte and returns it unchecked. -/
theorem respStep_byte {s : State} {b : Byte} {rest : List Byte} (hrq : s.tr.rq = b :: rest) (k : CmdCaller) :
    respStep k s = cmdReturn k (responseOf b) { s with tr.rq := rest } := by
  simp only [respStep, hrq]

/-- Settles O31: the call by `startSend`, the return of the send by `sendReturn`, the end of the delay by the queue. -/
theorem commandProcedure : Obligations.CommandProcedure := by
  refine ⟨decode_sCmd_word, fun s code expect hready => ⟨fun hidle => ?_, fun hbusy => ?_⟩,
    fun s hidle => ⟨fun hmain => ?_, fun k hmain => ?_⟩, fun s hmain => ⟨fun hrq => ?_, fun b rest hrq => ?_⟩⟩
  · rw [exec_sCmd hready, startSend_idle hidle]
  · rw [exec_sCmd hready, startSend_held hbusy]
    rfl
  · rw [mainStep_sendDone hmain, if_pos hidle]
    rfl
  · rw [mainStep_sendDone hmain, if_pos hidle]
    rfl
  · rw [mainStep_respDelay hmain, respStep_empty hrq]
    rfl
  · rw [mainStep_respDelay hmain, respStep_byte hrq]
    rfl

/-! ## `S.POLL` (R181, R182, R186) -/

theorem resyncDiscards_iff (b : Byte) (s : State) :
    resyncDiscards b s = true ↔ s.cfg.resync = .bit3 ∧ s.ses.frameIdx = 0 ∧ b.getLsbD 3 = false := by
  simp [resyncDiscards, and_assoc]

/-- R181, R252: before the first `S.BOOT` has returned, `S.POLL` faults. -/
theorem exec_sPoll_unready {s : State} (hready : readyFor s) (hboot : s.ses.ready = false) :
    exec .sPoll s = .fault .uninit := by
  refine (transportOp_ready hready _).trans ?_
  simp [hboot]

theorem exec_sPoll_empty {s : State} (hready : readyFor s) (hboot : s.ses.ready = true) (hrq : s.tr.rq = []) :
    exec .sPoll s = .next (finish .unit s) := by
  refine (transportOp_ready hready _).trans ?_
  simp only [hboot, hrq, ↓reduceIte]

section
variable {s : State} {b : Byte} {rest : List Byte} (hready : readyFor s) (hboot : s.ses.ready = true)
  (hrq : s.tr.rq = b :: rest)
include hready hboot hrq

/-- R181, R182: `S.POLL` takes one byte, which is discarded or goes to the frame. -/
theorem exec_sPoll_byte :
    exec .sPoll s =
      if resyncDiscards b s then .next (finish .unit { s with tr.rq := rest })
      else frameByte b { s with tr.rq := rest } := by
  refine (transportOp_ready hready _).trans ?_
  simp only [hboot, hrq, ↓reduceIte]
  rfl

theorem exec_sPoll_kept (hkeep : ¬ (s.cfg.resync = .bit3 ∧ s.ses.frameIdx = 0 ∧ b.getLsbD 3 = false)) :
    exec .sPoll s = frameByte b { s with tr.rq := rest } := by
  rw [exec_sPoll_byte hready hboot hrq, if_neg (mt (resyncDiscards_iff b s).1 hkeep)]

end

theorem exec_eMove {s : State} (hfree : s.main = .idle) (dx dy : BitVec 9) (btn : BitVec 3) :
    exec (.eMove dx dy btn) s = moveOp dx.toInt dy.toInt btn s := by
  change execEMove dx dy btn s = _
  exact onMain_free hfree _

/-- R181, R186: the third byte completes the frame and acts as `E.MOVE` of what the frame says. -/
theorem frameByte_third {s : State} (hfree : s.main = .idle) (hidx : s.ses.frameIdx = 2) (b : Byte) :
    frameByte b s = exec
      (.eMove (BitVec.ofBool (s.ses.frame0.getLsbD 4) ++ s.ses.frame1)
        (BitVec.ofBool (s.ses.frame0.getLsbD 5) ++ b) (buttons s.ses.frame0))
      { s with ses := { s.ses with frame2 := b, frameIdx := 0 } } := by
  rw [exec_eMove (by exact hfree)]
  simp only [frameByte, hidx, decodeDx, decodeDy, delta_eq]

/-- Settles O35: the fault, the empty queue, the discarded byte, and one case for each place in the frame. -/
theorem pollAssemblesFrames : Obligations.PollAssemblesFrames := by
  refine ⟨fun _ => rfl, fun s => exec_sPoll_unready, fun s => exec_sPoll_empty,
    fun s b rest hready hboot hrq =>
      ⟨fun hidx hbit3 hclear => ?_, fun hidx hsync => ?_, fun hidx => ?_, fun hidx => ?_⟩⟩
  · rw [exec_sPoll_byte hready hboot hrq, if_pos ((resyncDiscards_iff b s).2 ⟨hbit3, hidx, hclear⟩)]
    rfl
  · have hkeep : ¬ (s.cfg.resync = .bit3 ∧ s.ses.frameIdx = 0 ∧ b.getLsbD 3 = false) := by
      rcases hsync with hnone | hset
      · simp [hnone]
      · simp [hset]
    rw [exec_sPoll_kept hready hboot hrq hkeep]
    simp only [frameByte, hidx, finish]
  · rw [exec_sPoll_kept hready hboot hrq (by simp [hidx])]
    simp only [frameByte, hidx, finish]
  · rw [exec_sPoll_kept hready hboot hrq (by simp [hidx])]
    exact frameByte_third (s := { s with tr.rq := rest }) hready.1 hidx b

end Sys2Proof.Machine

/-! # Output emulator (spec/42_output.md): initialisation, the move in Joystick mode, and the three events -/

namespace Sys2Proof.Machine

/-- A state in which only the emulator and the trace are other than in `s`. -/
theorem eq_with_emulator {s t : State} {e : Emulator} {l : List TraceEvent} (hem : t.em = e) (htrace : t.trace = l)
    (hframe : t.cfg = s.cfg ∧ t.tr = s.tr ∧ t.ses = s.ses ∧ t.main = s.main ∧ t.ret = s.ret ∧
      t.preempt = s.preempt ∧ t.inputs = s.inputs) :
    t = { s with em := e, trace := l } := by
  obtain ⟨hcfg, htr, hses, hmain, hret, hpreempt, hinputs⟩ := hframe
  rw [← hem, ← htrace, ← hcfg, ← htr, ← hses, ← hmain, ← hret, ← hpreempt, ← hinputs]

/-! ## `E.INIT` (R210, R234) -/

/-- The register holds a well-formed zero point exactly: it is at most the largest target (R8). -/
theorem inWidth_zero {cfg : Config} {z : Nat} (hz : zeroWellFormed cfg z = true) : inWidth cfg z = z := by
  obtain ⟨-, -, hwidth, -⟩ := zeroWellFormed_bounds hz
  have hle : z ≤ maxTarget cfg z := Nat.le_add_right z _
  exact Nat.mod_eq_of_lt (hle.trans_lt hwidth)

/-- The emulator that `E.INIT m` leaves, with the zero point `z` and both targets at `t` (R210). -/
def clearedEmulator (m : Mode) (z t : Nat) : Emulator :=
  { syncEn := decide (m = .analog), mode := m, potX := .rel, potY := .rel, sw0 := .rel, sw1 := .rel, sw2 := .rel,
    joyUp := .rel, joyDown := .rel, joyLeft := .rel, joyRight := .rel, joyFire := .rel, zero := z, cntX := 0,
    cntY := 0, tgtX := t, tgtY := t, tcnt := 0, tcntRun := false, cmpX := 0, cmpY := 0, pulseRun := false,
    inited := true }

/-- The ten releases of R210, newest first. -/
def releaseWrites : List TraceEvent :=
  [.emitSw .fire .rel, .emitSw .right .rel, .emitSw .left .rel, .emitSw .down .rel, .emitSw .up .rel,
    .emitSw .sw2 .rel, .emitSw .sw1 .rel, .emitSw .sw0 .rel, .emitPot .y .rel, .emitPot .x .rel]

/-- R210: every field and every write of `E.INIT`, the targets being those of the counter value 0. -/
theorem initEmulator_eq (m : Mode) (s : State) :
    initEmulator m s =
      { s with
        em := clearedEmulator m s.em.zero (inWidth s.cfg (target s.cfg s.em.zero 0))
        trace := releaseWrites ++ s.trace } := by
  refine eq_with_emulator ?_ ?_ (by simp)
  · cases m <;> simp [initEmulator, clearedEmulator]
  · cases m <;> simp [initEmulator, releaseAll, releaseWrites]

theorem exec_eInit {s : State} (hfree : s.main = .idle) (m : Mode) :
    exec (.eInit m) s = .next (finish .unit (initEmulator m s)) := by
  change execEInit m s = _
  exact onMain_free hfree _

/-- Settles O37: `initEmulator` field by field, where the latched target `T(0)` is the zero point itself. -/
theorem eInitResult : Obligations.EInitResult := by
  refine ⟨fun _ => ⟨rfl, rfl⟩, fun s m hfree hz => ?_⟩
  rw [exec_eInit hfree, initEmulator_eq, target_zero, inWidth_zero hz]
  rfl

/-! ## `E.MOVE` in Joystick mode (R220, R222) -/

/-- R222: the emulator after a Joystick move; its counters are those of the state it starts from. -/
theorem joystickMove_em (dx dy : Int) (btn : BitVec 3) (s : State) :
    (joystickMove dx dy btn s).em =
      { s.em with
        tgtX := inWidth s.cfg (target s.cfg s.em.zero s.em.cntX.toNat),
        tgtY := inWidth s.cfg (target s.cfg s.em.zero s.em.cntY.toNat),
        joyRight := if 0 < dx then .low else .rel,
        joyLeft := if dx < 0 then .low else .rel,
        joyUp := if 0 < signedDy s.cfg dy then .low else .rel,
        joyDown := if signedDy s.cfg dy < 0 then .low else .rel,
        joyFire := if btn.getLsbD s.cfg.fireBit then .low else .rel,
        potX := if btn.getLsbD s.cfg.auxBit then .low else .rel,
        pulseRun := true } := by
  simp [joystickMove, switchOf]

theorem moveOp_joystick {s : State} (hinit : s.em.inited = true) (hmode : s.em.mode = .joystick) (dx dy : Int)
    (btn : BitVec 3) :
    moveOp dx dy btn s = .next (finish .unit (joystickMove dx dy btn (moveCounters dx dy s))) := by
  simp [moveOp, hinit, hmode]

/-- Settles O40: the counters by `upd_toNat`, the targets by `inWidth_target` of counters below `CNT_MOD`, and the
lines by `joystickMove_em`. -/
theorem joystickMoveAssertsDirections : Obligations.JoystickMoveAssertsDirections := by
  intro s dx dy btn hfree hinit hmode hcfg hzero
  have hx := upd_lt hcfg s.em.cntX dx.toInt
  have hy := upd_lt hcfg s.em.cntY (signedDy s.cfg dy.toInt)
  refine ⟨_, _, _, upd_toNat hcfg .., upd_toNat hcfg .., (exec_eMove hfree ..).trans (moveOp_joystick hinit hmode ..),
    ?_, by simp⟩
  simp only [finish_em, joystickMove_em, moveCounters_em, moveCounters_cfg, inWidth_target hzero hx,
    inWidth_target hzero hy]
  rfl

/-! ## The synchronization edge (R230) -/

theorem exec_evSync (s : State) : exec .evSync s = .next (syncEdge s) := rfl

theorem syncEdge_disabled {s : State} (hoff : s.em.syncEn = false) : syncEdge s = s := by
  simp [syncEdge, hoff]

/-- R230: with `SYNC_EN = 1` both lines go low, the compare registers take the targets, and the counter starts. -/
theorem syncEdge_enabled {s : State} (hon : s.em.syncEn = true) :
    syncEdge s =
      { s with
        em := { s.em with
          potX := .low, potY := .low, cmpX := s.em.tgtX, cmpY := s.em.tgtY, tcnt := 0, tcntRun := true }
        trace := .emitPot .y .low :: .emitPot .x .low :: s.trace } := by
  rw [syncEdge, if_pos hon]
  rfl

/-- Settles O42, by the two values of `SYNC_EN`. -/
theorem syncEdgeStartsTheWindow : Obligations.SyncEdgeStartsTheWindow := by
  refine ⟨fun _ => rfl, fun s hoff => ?_, fun s hon => ?_⟩
  · rw [exec_evSync, syncEdge_disabled hoff]
  · rw [exec_evSync, syncEdge_enabled hon]

/-! ## The counter tick (R231) -/

theorem exec_evTck (s : State) : exec .evTck s = .next (counterTick s) := rfl

theorem compareChannel_x_em {s : State} (hmode : s.em.mode = .analog) (cmp : Nat) :
    (compareChannel .x cmp s).em = { s.em with potX := if s.em.tcnt = cmp then .high else s.em.potX } := by
  by_cases hmatch : s.em.tcnt = cmp
  · rw [compareChannel, if_pos ⟨hmode, hmatch⟩, if_pos hmatch, emitPot_x_em]
  · rw [compareChannel, if_neg (mt And.right hmatch), if_neg hmatch]

theorem compareChannel_y_em {s : State} (hmode : s.em.mode = .analog) (cmp : Nat) :
    (compareChannel .y cmp s).em = { s.em with potY := if s.em.tcnt = cmp then .high else s.em.potY } := by
  by_cases hmatch : s.em.tcnt = cmp
  · rw [compareChannel, if_pos ⟨hmode, hmatch⟩, if_pos hmatch, emitPot_y_em]
  · rw [compareChannel, if_neg (mt And.right hmatch), if_neg hmatch]

theorem counterTick_stopped {s : State} (hstop : s.em.tcntRun = false) : counterTick s = s := by
  simp [counterTick, hstop]

/-- R231: a running counter advances, and each channel compares its new value. -/
theorem counterTick_running_em {s : State} (hrun : s.em.tcntRun = true) (hmode : s.em.mode = .analog) :
    (counterTick s).em =
      { s.em with
        tcnt := inWidth s.cfg (s.em.tcnt + 1),
        potX := if inWidth s.cfg (s.em.tcnt + 1) = s.em.cmpX then .high else s.em.potX,
        potY := if inWidth s.cfg (s.em.tcnt + 1) = s.em.cmpY then .high else s.em.potY } := by
  simp [counterTick, hrun, hmode, compareChannel_x_em, compareChannel_y_em]

/-- Settles O43: the running counter by `counterTick_running_em`, the rest by the frame of the tick. -/
theorem counterTickCompares : Obligations.CounterTickCompares := by
  refine ⟨fun _ => rfl, fun s hstop => ?_, fun s hrun hmode =>
    ⟨_, exec_evTck s, counterTick_running_em hrun hmode, by simp⟩⟩
  rw [exec_evTck, counterTick_stopped hstop]

/-! ## The pulse end (R232) -/

theorem exec_evPulse (s : State) : exec .evPulse s = .next (pulseEnd s) := rfl

theorem pulseEnd_stopped {s : State} (hstop : s.em.pulseRun = false) : pulseEnd s = s := by
  simp [pulseEnd, hstop]

/-- R232: the running pulse ends by releasing the directions and the fire output, and not `POTX`. -/
theorem pulseEnd_running {s : State} (hrun : s.em.pulseRun = true) :
    pulseEnd s =
      { s with
        em := { s.em with
          joyUp := .rel, joyDown := .rel, joyLeft := .rel, joyRight := .rel, joyFire := .rel, pulseRun := false }
        trace := .emitSw .fire .rel :: .emitSw .right .rel :: .emitSw .left .rel :: .emitSw .down .rel ::
          .emitSw .up .rel :: s.trace } := by
  refine eq_with_emulator ?_ ?_ (by simp)
  all_goals simp [pulseEnd, hrun]

/-- Settles O44, by whether the pulse runs. -/
theorem pulseEndReleasesDirections : Obligations.PulseEndReleasesDirections := by
  refine ⟨fun _ => rfl, fun s hstop => ?_, fun s hrun => ?_⟩
  · rw [exec_evPulse, pulseEnd_stopped hstop]
  · rw [exec_evPulse, pulseEnd_running hrun]

end Sys2Proof.Machine

/-! # Encoding (spec/30_encoding.md): the round trips of the decoder and the encoder -/

namespace Sys2Proof

/-! ## Decoding an encoding (R100 to R102, R90) -/

/-- R101, R102: the words of `S.SETRES`. -/
theorem decode_sSetres_word {cfg : Config} {r : Byte} (hr : r.toNat ≤ 3) :
    decode cfg (.word (0#16 ++ r ++ 0x22#8)) = .ok (.sSetres r) := by
  obtain ⟨hop, himm, hreserved⟩ := fields_formatB r 0x22#8
  simp [decode, decodeWord, formatB, inRange, Instr.wellFormed, hop, himm, hreserved, hr]

/-- R101, R102: the words of `E.MOVE`. -/
theorem decode_eMove_word (cfg : Config) (dx dy : BitVec 9) (btn : BitVec 3) :
    decode cfg (.word (0#3 ++ btn ++ dy ++ dx ++ 0x32#8)) = .ok (.eMove dx dy btn) := by
  obtain ⟨hop, hdx, hdy, hbtn, hreserved⟩ := fields_formatM btn dy dx 0x32#8
  simp [decode, decodeWord, formatM, hop, hdx, hdy, hbtn, hreserved]

/-- R90: each of the nine bytes, when they are distinct, names its own row: no row before it has its value. -/
theorem decodeByte_wireByte {cfg : Config} (hdistinct : cfg.wireBytesDistinct = true) :
    ∀ p ∈ [(cfg.cmdReset, Instr.cmdReset), (cfg.cmdDisable, .cmdDisable), (cfg.cmdEnable, .cmdEnable),
        (cfg.cmdScale21, .cmdScale21), (cfg.cmdSetres, .cmdSetres), (cfg.cmdStatus, .cmdStatus),
        (cfg.rspBatOk, .rspBatOk), (cfg.rspAck, .rspAck), (cfg.rspId, .rspId)],
      decodeByte cfg p.1 = .ok p.2 := by
  rw [Config.wireBytesDistinct, decide_eq_true_iff, ← List.nodup_reverse] at hdistinct
  simp only [Config.wireBytes, List.reverse_cons, List.reverse_nil, List.nil_append, List.cons_append,
    List.nodup_cons, List.mem_cons, List.not_mem_nil, or_false, not_or] at hdistinct
  simp [decodeByte, hdistinct]

/-- Settles O57: each format's words decode by their fields, and each byte by the table's order. -/
theorem decodeOfEncode : Obligations.DecodeOfEncode := by
  intro cfg i hdistinct hwf
  have hbyte := decodeByte_wireByte hdistinct
  simp only [List.forall_mem_cons] at hbyte
  obtain ⟨h1, h2, h3, h4, h5, h6, h7, h8, h9, -⟩ := hbyte
  cases i with
  | tInit | tAvail | tGet | tBusy | evTtmr | evBidle | sBoot | sPoll | evSync | evTck | evPulse => rfl
  | tEnrx bit | evFall bit => cases bit <;> rfl
  | eInit m => cases m <;> rfl
  | tSend b => exact Machine.decode_tSend_word cfg b
  | sSetres r => exact decode_sSetres_word (of_decide_eq_true hwf)
  | sCmd code expect => exact Machine.decode_sCmd_word cfg code expect
  | sDecode f0 f1 f2 => exact Machine.decode_sDecode_word cfg f0 f1 f2
  | eZero z => exact decode_eZero_word (of_decide_eq_true hwf)
  | eMove dx dy btn => exact decode_eMove_word cfg dx dy btn
  | cmdReset => exact h1
  | cmdDisable => exact h2
  | cmdEnable => exact h3
  | cmdScale21 => exact h4
  | cmdSetres => exact h5
  | cmdStatus => exact h6
  | rspBatOk => exact h7
  | rspAck => exact h8
  | rspId => exact h9

/-! ## Encoding what was decoded (R100 to R103)

A format that answers an instruction has found its reserved bits 0, so the word is made of the fields it read. -/

theorem guarded_ok {p : Prop} [Decidable p] {d : Decoded} {e : DecodeError} {i : Instr}
    (h : (if p then d else .illegal e) = .ok i) : p ∧ d = .ok i := by
  split at h
  · exact ⟨‹p›, h⟩
  · cases h

section
variable {w : OpWord} {op : Nat} (hop : (field w 0 8).toNat = op) {i : Instr}
include hop

theorem formatN_ok {j : Instr} (h : formatN w j = .ok i) : j = i ∧ encodeN (BitVec.ofNat 8 op) = .word w := by
  obtain ⟨hres, hi⟩ := guarded_ok h
  refine ⟨Decoded.ok.inj hi, congrArg Code.word (BitVec.eq_of_toNat_eq ?_)⟩
  have := w.isLt
  simp only [BitVec.toNat_eq, field_toNat, BitVec.ofNat_eq_ofNat, BitVec.toNat_ofNat] at hres hop
  rw [toNat_formatN, BitVec.toNat_ofNat]
  omega

theorem formatB_ok {k : Byte → Decoded} (h : formatB w k = .ok i) :
    k (field w 8 8) = .ok i ∧ encodeB (BitVec.ofNat 8 op) (field w 8 8) = .word w := by
  obtain ⟨hres, hi⟩ := guarded_ok h
  refine ⟨hi, congrArg Code.word (BitVec.eq_of_toNat_eq ?_)⟩
  have := w.isLt
  simp only [BitVec.toNat_eq, field_toNat, BitVec.ofNat_eq_ofNat, BitVec.toNat_ofNat] at hres hop
  rw [toNat_formatB, BitVec.toNat_ofNat, field_toNat]
  omega

theorem formatH_ok {k : BitVec 16 → Decoded} (h : formatH w k = .ok i) :
    k (field w 8 16) = .ok i ∧ Code.word (0#8 ++ field w 8 16 ++ BitVec.ofNat 8 op) = .word w := by
  obtain ⟨hres, hi⟩ := guarded_ok h
  refine ⟨hi, congrArg Code.word (BitVec.eq_of_toNat_eq ?_)⟩
  have := w.isLt
  simp only [BitVec.toNat_eq, field_toNat, BitVec.ofNat_eq_ofNat, BitVec.toNat_ofNat] at hres hop
  rw [toNat_formatH, BitVec.toNat_ofNat, field_toNat]
  omega

theorem formatC_ok {k : Byte → Bool → Decoded} (h : formatC w k = .ok i) :
    k (field w 8 8) (field w 16 1 == 1) = .ok i ∧
      Code.word (0#15 ++ field w 16 1 ++ field w 8 8 ++ BitVec.ofNat 8 op) = .word w := by
  obtain ⟨hres, hi⟩ := guarded_ok h
  refine ⟨hi, congrArg Code.word (BitVec.eq_of_toNat_eq ?_)⟩
  have := w.isLt
  simp only [BitVec.toNat_eq, field_toNat, BitVec.ofNat_eq_ofNat, BitVec.toNat_ofNat] at hres hop
  rw [toNat_formatC, BitVec.toNat_ofNat, field_toNat, field_toNat]
  omega

theorem formatF_ok {k : Byte → Byte → Byte → Decoded} (h : formatF w k = .ok i) :
    k (field w 8 8) (field w 16 8) (field w 24 8) = .ok i ∧
      Code.word (field w 24 8 ++ field w 16 8 ++ field w 8 8 ++ BitVec.ofNat 8 op) = .word w := by
  refine ⟨h, congrArg Code.word (BitVec.eq_of_toNat_eq ?_)⟩
  have := w.isLt
  rw [field_toNat] at hop
  rw [toNat_formatF, BitVec.toNat_ofNat, field_toNat, field_toNat, field_toNat]
  omega

theorem formatM_ok {k : BitVec 9 → BitVec 9 → BitVec 3 → Decoded} (h : formatM w k = .ok i) :
    k (field w 8 9) (field w 17 9) (field w 26 3) = .ok i ∧
      Code.word (0#3 ++ field w 26 3 ++ field w 17 9 ++ field w 8 9 ++ BitVec.ofNat 8 op) = .word w := by
  obtain ⟨hres, hi⟩ := guarded_ok h
  refine ⟨hi, congrArg Code.word (BitVec.eq_of_toNat_eq ?_)⟩
  have := w.isLt
  simp only [BitVec.toNat_eq, field_toNat, BitVec.ofNat_eq_ofNat, BitVec.toNat_ofNat] at hres hop
  rw [toNat_formatM, BitVec.toNat_ofNat, field_toNat, field_toNat, field_toNat]
  omega

/-- A one-bit operand, under format B. -/
theorem formatB_bitOperand_ok {k : Bool → Instr} (h : formatB w (fun imm => bitOperand imm k) = .ok i) :
    ∃ bit, k bit = i ∧ encodeB (BitVec.ofNat 8 op) (bitImm bit) = .word w := by
  obtain ⟨hbit, hw⟩ := formatB_ok hop h
  unfold bitOperand at hbit
  split at hbit
  · next h0 => exact ⟨false, Decoded.ok.inj hbit, by rw [h0] at hw; exact hw⟩
  · obtain ⟨h1, hbit⟩ := guarded_ok hbit
    exact ⟨true, Decoded.ok.inj hbit, by rw [h1] at hw; exact hw⟩

end

theorem modeImm_modeOfBit (bit : Bool) : modeImm (modeOfBit bit) = bitImm bit := by cases bit <;> rfl

theorem ofBool_beq_one (v : BitVec 1) : BitVec.ofBool (v == 1) = v := by revert v; decide

theorem inRange_ok {cfg : Config} {i j : Instr} (h : inRange cfg j = .ok i) : j = i ∧ i.wellFormed cfg = true := by
  obtain ⟨hwf, hi⟩ := guarded_ok h
  cases hi
  exact ⟨rfl, hwf⟩

theorem encode_of_decodeWord {cfg : Config} {w : OpWord} {i : Instr} (h : decodeWord cfg w = .ok i) :
    encode cfg i = .word w ∧ i.wellFormed cfg = true := by
  unfold decodeWord at h
  split at h
  case h_21 => cases h
  all_goals rename_i hop
  case h_1 | h_3 | h_4 | h_6 | h_8 | h_9 | h_10 | h_14 | h_18 | h_19 | h_20 =>
    obtain ⟨rfl, hw⟩ := formatN_ok hop h
    exact ⟨hw, rfl⟩
  case h_2 | h_7 =>
    obtain ⟨bit, rfl, hw⟩ := formatB_bitOperand_ok hop h
    exact ⟨hw, rfl⟩
  case h_5 =>
    obtain ⟨hi, hw⟩ := formatB_ok hop h
    cases hi
    exact ⟨hw, rfl⟩
  case h_11 =>
    obtain ⟨hi, hw⟩ := formatC_ok hop h
    cases hi
    exact ⟨by rw [encode, ofBool_beq_one]; exact hw, rfl⟩
  case h_12 =>
    obtain ⟨hi, hw⟩ := formatB_ok hop h
    obtain ⟨rfl, hwf⟩ := inRange_ok hi
    exact ⟨hw, hwf⟩
  case h_13 =>
    obtain ⟨hi, hw⟩ := formatF_ok hop h
    cases hi
    exact ⟨hw, rfl⟩
  case h_15 =>
    obtain ⟨bit, rfl, hw⟩ := formatB_bitOperand_ok hop h
    exact ⟨by rw [encode, modeImm_modeOfBit]; exact hw, rfl⟩
  case h_16 =>
    obtain ⟨hi, hw⟩ := formatH_ok hop h
    obtain ⟨rfl, hwf⟩ := inRange_ok hi
    exact ⟨hw, hwf⟩
  case h_17 =>
    obtain ⟨hi, hw⟩ := formatM_ok hop h
    cases hi
    exact ⟨hw, rfl⟩

theorem encode_of_decodeByte {cfg : Config} {b : Byte} {i : Instr} (h : decodeByte cfg b = .ok i) :
    encode cfg i = .byte b ∧ i.wellFormed cfg = true := by
  unfold decodeByte at h
  repeat' split at h
  all_goals cases h
  all_goals exact ⟨congrArg Code.byte (Eq.symm ‹_›), rfl⟩

/-- Settles O58: words by their formats, bytes by the row of the table that names them. -/
theorem encodeOfDecode : Obligations.EncodeOfDecode := by
  intro cfg c i h
  cases c with
  | word w => exact encode_of_decodeWord h
  | byte b => exact encode_of_decodeByte h

end Sys2Proof

/-! # Answers of an instruction: which operations are refused, which fault, and what they leave alone -/

namespace Sys2Proof.Machine

/-! ## MAIN is free for a host operation (R283) -/

theorem onMain_held {s : State} (hheld : s.main ≠ .idle) (k : State → Result) : onMain s k = .refused .mainBusy :=
  if_neg hheld

/-- Every host operation is guarded by R283's check. -/
theorem exec_eq_onMain {i : Instr} (hop : isMainOp i = true) (s : State) : ∃ k, exec i s = onMain s k := by
  cases i with
  | tInit => exact ⟨_, show execTInit s = _ from rfl⟩
  | sDecode f0 f1 f2 => exact ⟨_, show execSDecode f0 f1 f2 s = _ from rfl⟩
  | eInit m => exact ⟨_, show execEInit m s = _ from rfl⟩
  | eZero z => exact ⟨_, show execEZero z s = _ from rfl⟩
  | eMove dx dy btn => exact ⟨_, show execEMove dx dy btn s = _ from rfl⟩
  | tEnrx | tAvail | tGet | tSend | tBusy | sBoot | sCmd | sSetres | sPoll | cmdReset | cmdDisable | cmdEnable
  | cmdScale21 | cmdSetres | cmdStatus => exact ⟨_, show transportOp s _ = _ from rfl⟩
  | evFall | evTtmr | evBidle | evSync | evTck | evPulse | rspBatOk | rspAck | rspId =>
    exact absurd hop (by simp [isMainOp, agentsOf])

theorem exec_next_free {i : Instr} {s t : State} (h : exec i s = .next t) (hop : isMainOp i = true) :
    s.main = .idle := by
  obtain ⟨k, hk⟩ := exec_eq_onMain hop s
  exact (onMain_next (hk.symm.trans h)).1

/-- Settles O7, by the check that guards every host operation. -/
theorem hostOperationsNeedFreeMain : Obligations.HostOperationsNeedFreeMain := by
  intro i s hop hheld
  obtain ⟨k, hk⟩ := exec_eq_onMain hop s
  rw [hk, onMain_held hheld]

/-! ## Events complete (R70, R255) -/

theorem timerTick_keeps (s : State) :
    (timerTick s).cfg = s.cfg ∧ (timerTick s).em = s.em ∧ (timerTick s).main = s.main ∧
      (timerTick s).ses = s.ses ∧ (timerTick s).ret = s.ret ∧ (timerTick s).preempt = s.preempt ∧
      (timerTick s).inputs = s.inputs := by
  unfold timerTick
  split
  · simp
  · simp [recover]
  · unfold bark
    split
    · dsimp only
      split <;> simp [enterError_eq, errored]
    · simp

theorem busIdle_keeps (s : State) :
    (busIdle s).cfg = s.cfg ∧ (busIdle s).em = s.em ∧ (busIdle s).main = s.main ∧
      (busIdle s).ses = s.ses ∧ (busIdle s).ret = s.ret ∧ (busIdle s).preempt = s.preempt ∧
      (busIdle s).inputs = s.inputs := by
  unfold busIdle
  split <;> simp

/-- Settles O6, event by event, from what each leaves alone. -/
theorem eventsAlwaysComplete : Obligations.EventsAlwaysComplete := by
  intro i s hev
  cases i with
  | evFall d =>
    obtain ⟨hcfg, -, hmain, hses, hret, hpre, hin⟩ := takeFall_keeps d s
    exact ⟨_, rfl, hcfg, hmain, hses, hret, hpre, hin⟩
  | evTtmr =>
    obtain ⟨hcfg, -, hmain, hses, hret, hpre, hin⟩ := timerTick_keeps s
    exact ⟨_, rfl, hcfg, hmain, hses, hret, hpre, hin⟩
  | evBidle =>
    obtain ⟨hcfg, -, hmain, hses, hret, hpre, hin⟩ := busIdle_keeps s
    exact ⟨_, rfl, hcfg, hmain, hses, hret, hpre, hin⟩
  | evSync => exact ⟨_, exec_evSync s, by simp⟩
  | evTck => exact ⟨_, exec_evTck s, by simp⟩
  | evPulse => exact ⟨_, exec_evPulse s, by simp⟩
  | rspBatOk | rspAck | rspId =>
    obtain ⟨hcfg, -, hmain, hses, hret, hpre, hin⟩ := takeFalls_keeps (frameBits _) s
    exact ⟨_, rfl, hcfg, hmain, hses, hret, hpre, hin⟩
  | _ => exact absurd hev (by simp [isMainOp, agentsOf])

/-! ## Which faults there are (R252) -/

theorem onMain_fault {s : State} {k : State → Result} {f : Fault} (h : onMain s k = .fault f) :
    s.main = .idle ∧ k s = .fault f := by
  unfold onMain at h
  split at h
  · exact ⟨‹_›, h⟩
  · cases h

theorem transportOp_fault {s : State} {k : State → Result} {f : Fault} (h : transportOp s k = .fault f) :
    (s.tr.inited = false ∧ f = .uninit) ∨ k s = .fault f := by
  obtain ⟨-, h⟩ := onMain_fault h
  unfold afterTInit at h
  split at h
  · exact .inr h
  · next hinit => cases h; exact .inl ⟨eq_false_of_ne_true hinit, rfl⟩

theorem moveOp_fault {dx dy : Int} {btn : BitVec 3} {s : State} {f : Fault} (h : moveOp dx dy btn s = .fault f) :
    s.em.inited = false ∧ f = .uninit := by
  unfold moveOp at h
  split at h
  · dsimp only at h
    split at h
    · split at h <;> cases h
    · cases h
  · next hinit => cases h; exact ⟨eq_false_of_ne_true hinit, rfl⟩

theorem zeroOp_fault {z : Nat} {a : After} {s : State} {f : Fault} (h : zeroOp z a s = .fault f) :
    zeroWellFormed s.cfg z = false ∧ f = .config := by
  unfold zeroOp at h
  split at h
  · dsimp only at h
    split at h
    · split at h <;> cases h
    · cases h
  · next hz => cases h; exact ⟨eq_false_of_ne_true hz, rfl⟩

theorem setResOp_fault {r : Byte} {a : After} {s : State} {f : Fault} (h : setResOp r a s = .fault f) :
    3 < r.toNat ∧ f = .badRes := by
  unfold setResOp at h
  split at h
  · cases h; exact ⟨‹_›, rfl⟩
  · cases h

theorem frameByte_fault {b : Byte} {s : State} {f : Fault} (h : frameByte b s = .fault f) :
    s.ses.frameIdx = 2 ∧ s.em.inited = false ∧ f = .uninit := by
  unfold frameByte at h
  split at h
  · cases h
  · cases h
  · next hidx =>
    dsimp only at h
    obtain ⟨hinit, hf⟩ := moveOp_fault h
    exact ⟨hidx, hinit, hf⟩

/-- Settles O5: an event does not fault, and of a host operation the guards and the shared operations fault as their
laws say. -/
theorem faultsOnlyWhereTheTableSays : Obligations.FaultsOnlyWhereTheTableSays := by
  intro i s f h
  have hop : isMainOp i = true := by
    refine eq_true_of_ne_false fun hev => ?_
    obtain ⟨t, ht, -⟩ := eventsAlwaysComplete i s hev
    rw [ht] at h
    cases h
  obtain ⟨k, hk⟩ := exec_eq_onMain hop s
  have hfree := (onMain_fault (hk.symm.trans h)).1
  refine ⟨hfree, hop, ?_⟩
  cases i with
  | tInit => rw [exec_tInit hfree] at h; cases h
  | sDecode => rw [exec_sDecode hfree] at h; cases h
  | eInit => rw [exec_eInit hfree] at h; cases h
  | tEnrx | tAvail | tBusy | tSend | sBoot | sCmd | cmdReset | cmdDisable | cmdEnable | cmdScale21 | cmdSetres
  | cmdStatus =>
    obtain ⟨hinit, rfl⟩ | hbody := transportOp_fault h
    · exact .inl ⟨hinit, by simp⟩
    · cases hbody
  | tGet =>
    obtain ⟨hinit, rfl⟩ | hbody := transportOp_fault h
    · exact .inl ⟨hinit, by simp⟩
    · split at hbody
      · cases hbody; exact ⟨rfl, ‹_›⟩
      · cases hbody
  | sSetres r =>
    obtain ⟨hinit, rfl⟩ | hbody := transportOp_fault h
    · exact .inl ⟨hinit, by simp⟩
    · obtain ⟨hr, rfl⟩ := setResOp_fault hbody
      exact ⟨r, rfl, hr⟩
  | sPoll =>
    obtain ⟨hinit, rfl⟩ | hbody := transportOp_fault h
    · exact .inl ⟨hinit, by simp⟩
    · split at hbody
      · split at hbody
        · cases hbody
        · next hrq =>
          dsimp only at hbody
          split at hbody
          · cases hbody
          · obtain ⟨hidx, hinit, rfl⟩ := frameByte_fault hbody
            exact .inr (.inr ⟨hinit, .inr ⟨rfl, hidx, by simp [hrq]⟩⟩)
      · next hboot => cases hbody; exact .inr (.inl ⟨rfl, eq_false_of_ne_true hboot⟩)
  | eZero z =>
    obtain ⟨hz, rfl⟩ := zeroOp_fault (onMain_fault h).2
    exact ⟨z, rfl, hz⟩
  | eMove dx dy btn =>
    obtain ⟨hinit, rfl⟩ := moveOp_fault (onMain_fault h).2
    exact .inr (.inr ⟨hinit, .inl ⟨dx, dy, btn, rfl⟩⟩)
  | _ => exact absurd hop (by simp [isMainOp, agentsOf])

/-! ## Which registers an instruction writes (R22, R31) -/

/-- The instructions that write a register of the emulator (R31). -/
def writesEmulator : Instr → Bool
  | .tInit | .sPoll | .eInit _ | .eZero _ | .eMove _ _ _ | .evSync | .evTck | .evPulse => true
  | .tEnrx _ | .tAvail | .tGet | .tSend _ | .tBusy | .evFall _ | .evTtmr | .evBidle => false
  | .sBoot | .sCmd _ _ | .sSetres _ | .sDecode _ _ _ => false
  | .cmdReset | .cmdDisable | .cmdEnable | .cmdScale21 | .cmdSetres | .cmdStatus => false
  | .rspBatOk | .rspAck | .rspId => false

@[simp] theorem startSend_cfg (b : Byte) (c : SendCaller) (s : State) : (startSend b c s).cfg = s.cfg := by
  unfold startSend; split <;> rfl

@[simp] theorem startSend_ses (b : Byte) (c : SendCaller) (s : State) : (startSend b c s).ses = s.ses := by
  unfold startSend; split <;> rfl

@[simp] theorem startSend_em (b : Byte) (c : SendCaller) (s : State) : (startSend b c s).em = s.em := by
  unfold startSend; split <;> rfl

theorem setResOp_next {r : Byte} {a : After} {s t : State} (h : setResOp r a s = .next t) :
    r.toNat ≤ 3 ∧ t = startSend s.cfg.cmdDisable (.cmd true (.setRes .disable r a)) s := by
  unfold setResOp at h
  split at h
  · cases h
  · cases h; exact ⟨by omega, rfl⟩

theorem frameByte_cfg {b : Byte} {s t : State} (h : frameByte b s = .next t) : t.cfg = s.cfg := by
  unfold frameByte at h
  split at h
  · cases h; rfl
  · cases h; rfl
  · exact (moveOp_next h).1

/-- What `S.POLL` answers: nothing taken, a byte discarded, or a byte of the frame (R181, R182). -/
theorem execSPoll_next {s t : State} (h : execSPoll s = .next t) :
    s.main = .idle ∧ s.tr.inited = true ∧
      (t = finish .unit s ∨ ∃ b rest, s.tr.rq = b :: rest ∧
        (t = finish .unit { s with tr.rq := rest } ∨ frameByte b { s with tr.rq := rest } = .next t)) := by
  obtain ⟨hfree, hinit, hbody⟩ := transportOp_next h
  refine ⟨hfree, hinit, ?_⟩
  split at hbody
  · split at hbody
    · cases hbody; exact .inl rfl
    · next b rest hrq =>
      refine .inr ⟨b, rest, hrq, ?_⟩
      dsimp only at hbody
      split at hbody
      · cases hbody; exact .inl rfl
      · exact .inr hbody
  · cases hbody

/-- What `T.GET` answers (R123). -/
theorem execTGet_next {s t : State} (h : execTGet s = .next t) :
    s.main = .idle ∧ ∃ b rest, s.tr.rq = b :: rest ∧ t = finish (.byte b) { s with tr.rq := rest } := by
  obtain ⟨hfree, -, hbody⟩ := transportOp_next h
  split at hbody
  · cases hbody
  · next b rest hrq => cases hbody; exact ⟨hfree, b, rest, hrq, rfl⟩

/-- No instruction writes the configuration, `S.POLL` alone writes the session, and the emulator is written only by the
instructions that R31 names. -/
theorem exec_keeps {i : Instr} {s t : State} (h : exec i s = .next t) :
    t.cfg = s.cfg ∧ (i ≠ .sPoll → t.ses = s.ses) ∧ (writesEmulator i = false → t.em = s.em) := by
  cases i with
  | tInit => rw [exec_tInit (exec_next_free h rfl)] at h; cases h; simp [initialised, writesEmulator]
  | sDecode => rw [exec_sDecode (exec_next_free h rfl)] at h; cases h; simp
  | eInit m => rw [exec_eInit (exec_next_free h rfl)] at h; cases h; simp [writesEmulator]
  | tEnrx e => obtain ⟨-, -, hbody⟩ := transportOp_next h; cases hbody; cases e <;> simp [enableReceive, disableReceive]
  | tAvail | tBusy | tSend | sBoot | sCmd | cmdReset | cmdDisable | cmdEnable | cmdScale21 | cmdSetres | cmdStatus =>
    obtain ⟨-, -, hbody⟩ := transportOp_next h; cases hbody; simp
  | tGet => obtain ⟨-, b, rest, -, rfl⟩ := execTGet_next h; simp
  | evFall d => obtain ⟨hcfg, hem, -, hses, -⟩ := takeFall_keeps d s; cases h; simp [hcfg, hem, hses]
  | evTtmr => obtain ⟨hcfg, hem, -, hses, -⟩ := timerTick_keeps s; cases h; simp [hcfg, hem, hses]
  | evBidle => obtain ⟨hcfg, hem, -, hses, -⟩ := busIdle_keeps s; cases h; simp [hcfg, hem, hses]
  | rspBatOk | rspAck | rspId =>
    obtain ⟨hcfg, hem, -, hses, -⟩ := takeFalls_keeps (frameBits _) s
    cases h
    exact ⟨hcfg, fun _ => hses, fun _ => hem⟩
  | sSetres r =>
    obtain ⟨-, -, hbody⟩ := transportOp_next h
    obtain ⟨-, rfl⟩ := setResOp_next hbody
    simp
  | sPoll =>
    obtain ⟨-, -, rfl | ⟨b, rest, -, rfl | hframe⟩⟩ := execSPoll_next h
    · simp [writesEmulator]
    · simp [writesEmulator]
    · simp [writesEmulator, frameByte_cfg hframe]
  | eZero z =>
    obtain ⟨hcfg, -, hses, -⟩ := zeroOp_next (onMain_next h).2
    simp [hcfg, hses, writesEmulator]
  | eMove dx dy btn =>
    obtain ⟨hcfg, -, hses, -⟩ := moveOp_next (onMain_next h).2
    simp [hcfg, hses, writesEmulator]
  | evSync | evTck | evPulse => cases h; simp [writesEmulator]

/-- Settles O51, from what an instruction writes; `T.INIT` by the state it leaves. -/
theorem registersBelongToTheirWriters : Obligations.RegistersBelongToTheirWriters := by
  intro i s t h
  obtain ⟨-, hses, hem⟩ := exec_keeps h
  refine ⟨?_, hses, fun h1 h2 h3 h4 h5 h6 h7 h8 => hem ?_⟩
  · rintro rfl
    rw [exec_tInit (exec_next_free h rfl)] at h
    cases h
    rfl
  · cases i <;> simp_all [writesEmulator]

end Sys2Proof.Machine

/-! # The step (spec/20_memory.md R70): the entries of the schedule, and what every step keeps -/

namespace Sys2Proof.Machine

/-! ## One entry of the schedule -/

theorem step_unchecked {s : State} (hbad : configOk s.cfg = false) : step s = .fault .config := by
  simp [step, nextStep, hbad]

section
variable {s : State} (hok : configOk s.cfg = true)
include hok

theorem step_empty (hin : s.inputs = []) : step s = mainStep s := by simp [step, nextStep, hok, hin]

theorem step_item {it : Item} {rest : List Item} (hin : s.inputs = it :: rest) : step s = runItem it rest s := by
  simp [step, nextStep, hok, hin]

theorem step_op {a : Agent} {c : Code} {i : Instr} {rest : List Item} (hin : s.inputs = .op a c :: rest)
    (hdec : decode s.cfg c = .ok i) (ha : a ∈ agentsOf i) :
    step s = if isMainOp i then callByMain rest (exec i) s else exec i { s with inputs := rest } := by
  rw [step_item hok hin, runItem, present, hdec]
  exact if_pos ha

end

theorem callByMain_ready {s : State} (hready : mainReady s = true) (rest : List Item) (call : State → Result) :
    callByMain rest call s = mainStep s := if_pos hready

theorem callByMain_not_ready {s : State} (hready : mainReady s = false) (rest : List Item) (call : State → Result) :
    callByMain rest call s = call { s with inputs := rest } := if_neg (ne_true_of_eq_false hready)

theorem mainReady_idle {s : State} (hfree : s.main = .idle) : mainReady s = false := by simp [mainReady, hfree]

/-- Settles O52: MAIN is not ready when it is free, so its call is made. -/
theorem stepRunsTheDecodedInstruction : Obligations.StepRunsTheDecodedInstruction := by
  intro s a c i rest hok hin hdec ha hfree
  rw [step_op hok hin hdec ha]
  split
  · next hop => exact callByMain_not_ready (mainReady_idle (hfree hop)) ..
  · rfl

/-- Settles O55: presenting a code asks the decoder and then the agents. -/
theorem refusedCodes : Obligations.RefusedCodes := by
  intro s a c rest hok hin
  refine ⟨fun e hdec => ?_, fun i hdec ha => ?_⟩
  · rw [step_item hok hin, runItem, present, hdec]
  · rw [step_item hok hin, runItem, present, hdec]
    exact if_neg ha

/-! ## Every entry (R70, R106, R107, R281, R285) -/

theorem finishPending_idle {s : State} (hfree : s.main = .idle) (n : Nat) : finishPending n s = .next s := by
  cases n <;> simp [finishPending, hfree]

/-- `WAIT` at the end of the firmware's own `T.SEND` (R124, R106). -/
theorem finishPending_sendDone {s : State} (hmain : s.main = .sendDone .op) {n : Nat} (hn : n ≠ 0) :
    finishPending n s = if s.tr.link = .idle then .next (finish .unit s) else .refused .waitNotReady := by
  obtain ⟨n, rfl⟩ := Nat.exists_eq_succ_of_ne_zero hn
  by_cases hidle : s.tr.link = .idle
  · simp [finishPending, mainReady, mainStep, sendReturn, hmain, hidle]
    exact finishPending_idle rfl n
  · simp [finishPending, mainReady, hmain, hidle]

theorem flushOp_ready {s : State} (hready : readyFor s) : flushOp s = .next (finish (.bit false) (clear s)) :=
  transportOp_ready hready _

theorem flushOp_uninit {s : State} (hfree : s.main = .idle) (hinit : s.tr.inited = false) :
    flushOp s = .fault .uninit := by
  simp [flushOp, transportOp, onMain, afterTInit, hfree, hinit]

/-- Settles O53, entry by entry; what `WAIT` does is `finishPending`, read from MAIN's steps. -/
theorem scheduleEntries : Obligations.ScheduleEntries := by
  intro s hok
  refine ⟨step_empty hok, fun rest => step_item hok, fun rest => step_item hok, fun rest hin hfree => ?_,
    fun rest hin hmain => ?_, fun rest n hin hn hsteps => ?_, fun rest t hin h => ?_, mainReady_iff s,
    fun rest hin hready => ?_, fun a c i rest hin hdec ha hop => ⟨fun hready => ?_, fun hready => ?_⟩,
    fun a c i rest hin hdec ha hop => ?_,
    fun rest hin => ⟨fun hready => ?_, fun hready => ?_, fun hready hheld => ?_⟩,
    fun rest hin => ⟨fun hready => ?_, fun hfree hinit => ?_, fun hready hheld => ?_⟩, fun rest => step_item hok⟩
  · rw [step_item hok hin]
    exact finishPending_idle (s := { s with inputs := rest }) hfree _
  · rw [step_item hok hin]
    exact finishPending_sendDone (s := { s with inputs := rest }) hmain (by simp [waitBound])
  · rw [step_item hok hin]
    exact finishPending_steps n _ { s with inputs := rest } hn hsteps
  · rw [step_item hok hin] at h
    exact finishPending_next _ h
  · rw [step_item hok hin, runItem, callByMain_not_ready (mainReady_idle hready.1)]
    exact flushOp_ready (s := { s with inputs := rest }) hready
  · rw [step_op hok hin hdec ha, if_pos hop, callByMain_ready hready]
  · rw [step_op hok hin hdec ha, if_pos hop, callByMain_not_ready hready]
  · rw [step_op hok hin hdec ha, if_neg (ne_true_of_eq_false hop)]
  · rw [step_item hok hin, runItem, callByMain_ready hready]
  · rw [step_item hok hin, runItem, callByMain_not_ready hready]
  · rw [step_item hok hin, runItem, callByMain_not_ready hready]
    exact onMain_held (s := { s with inputs := rest }) hheld _
  · rw [step_item hok hin, runItem, callByMain_ready hready]
  · rw [step_item hok hin, runItem, callByMain_not_ready (mainReady_idle hfree)]
    exact flushOp_uninit (s := { s with inputs := rest }) hfree hinit
  · rw [step_item hok hin, runItem, callByMain_not_ready hready, flushOp, transportOp]
    exact onMain_held (s := { s with inputs := rest }) hheld _

/-! ## What every step keeps

A step is made of MAIN's steps, instructions, `S.FLUSH` and the startup collaborator, and of writes of the schedule and
its mark. What all of these keep, under a checked configuration, every step keeps. -/

/-- `P` is kept by everything a step can do under a checked configuration. -/
structure KeptByMoves (P : State → Prop) : Prop where
  schedule : ∀ (s : State) (mark : Bool) (items : List Item), P s → P { s with preempt := mark, inputs := items }
  main : ∀ s t : State, configOk s.cfg = true → P s → mainStep s = .next t → P t
  exec : ∀ (i : Instr) (s t : State), configOk s.cfg = true → P s → exec i s = .next t → P t
  flush : ∀ s t : State, configOk s.cfg = true → P s → flushOp s = .next t → P t
  startup : ∀ s t : State, configOk s.cfg = true → P s → startupOp s = .next t → P t

theorem step_next_configOk {s t : State} (h : step s = .next t) : configOk s.cfg = true := by
  refine eq_true_of_ne_false fun hbad => ?_
  rw [step_unchecked hbad] at h
  cases h

namespace KeptByMoves

variable {P : State → Prop} (hP : KeptByMoves P) {s t : State} (hok : configOk s.cfg = true)
include hP

theorem inputs {s : State} (hs : P s) (rest : List Item) : P { s with inputs := rest } :=
  hP.schedule s s.preempt rest hs

include hok

theorem callByMain {rest : List Item} {call : State → Result}
    (hcall : ∀ u v : State, configOk u.cfg = true → P u → call u = .next v → P v) (hs : P s)
    (h : callByMain rest call s = .next t) : P t := by
  cases hready : mainReady s with
  | true => rw [callByMain_ready hready] at h; exact hP.main s t hok hs h
  | false => rw [callByMain_not_ready hready] at h; exact hcall { s with inputs := rest } t hok (hP.inputs hs rest) h

theorem mainSteps {n : Nat} (hs : P s) (h : runMoves (List.replicate n .main) s = .next t) : P t := by
  induction n generalizing s with
  | zero => cases h; exact hs
  | succ n ih =>
    rw [List.replicate_succ, runMoves, runMove] at h
    split at h
    · next u hu => exact ih ((mainStep_next hu).1 ▸ hok) (hP.main s u hok hs hu) h
    · cases h
    · cases h

theorem present {a : Agent} {c : Code} {rest : List Item} (hs : P s) (h : present a c rest s = .next t) : P t := by
  unfold Machine.present at h
  split at h
  · cases h
  · next i _ =>
    split at h
    · split at h
      · exact hP.callByMain hok (hP.exec i) hs h
      · exact hP.exec i { s with inputs := rest } t hok (hP.inputs hs rest) h
    · cases h

theorem item {it : Item} {rest : List Item} (hs : P s) (h : runItem it rest s = .next t) : P t := by
  have hs' := hP.inputs hs rest
  cases it with
  | op a c => exact hP.present hok hs h
  | main => exact hP.main { s with inputs := rest } t hok hs' h
  | wait =>
    obtain ⟨-, n, -, hn⟩ := finishPending_next _ h
    exact hP.mainSteps (s := { s with inputs := rest }) hok hs' hn
  | flush => exact hP.callByMain hok hP.flush hs h
  | startup => exact hP.callByMain hok hP.startup hs h
  | preempt => cases h; exact hP.schedule s true rest hs
  | stop =>
    rw [runItem, endOfScript] at h
    split at h
    · cases h; exact hs'
    · cases h

omit hok in
theorem step (hs : P s) (h : step s = .next t) : P t := by
  have hok := step_next_configOk h
  cases hin : s.inputs with
  | nil => rw [step_empty hok hin] at h; exact hP.main s t hok hs h
  | cons it rest => rw [step_item hok hin] at h; exact hP.item hok hs h

end KeptByMoves

/-! ## The configuration (R7) -/

/-- What `S.FLUSH` answers (R176). -/
theorem flushOp_next {s t : State} (h : flushOp s = .next t) :
    s.main = .idle ∧ s.tr.inited = true ∧ t = finish (.bit false) (clear s) := by
  obtain ⟨hfree, hinit, hbody⟩ := transportOp_next h
  cases hbody
  exact ⟨hfree, hinit, rfl⟩

/-- What the startup collaborator answers: its first call is `S.SETRES`, which sends, or one that it makes in MAIN's
next step (R281). -/
theorem startupOp_next {s t : State} (h : startupOp s = .next t) :
    s.main = .idle ∧
      ((s.tr.inited = true ∧ ∃ r a, t = startSend s.cfg.cmdDisable (.cmd true (.setRes .disable r a)) s) ∨
        ∃ a, t = goOn a s) := by
  obtain ⟨hfree, hbody⟩ := onMain_next h
  refine ⟨hfree, ?_⟩
  split at hbody
  · dsimp only at hbody
    split at hbody
    · next r _ =>
      unfold afterTInit at hbody
      split at hbody
      · exact .inl ⟨‹_›, r, _, (setResOp_next hbody).2⟩
      · cases hbody
    · cases hbody; exact .inr ⟨_, rfl⟩
  · cases hbody

/-- No step writes the configuration. -/
theorem keptByMoves_cfg (cfg : Config) : KeptByMoves fun s => s.cfg = cfg where
  schedule _ _ _ hs := hs
  main _ _ _ hs h := (mainStep_next h).1.trans hs
  exec _ _ _ _ hs h := (exec_keeps h).1.trans hs
  flush s t _ hs h := by
    obtain ⟨-, -, rfl⟩ := flushOp_next h
    exact hs
  startup s t _ hs h := by
    obtain ⟨-, ⟨-, r, a, rfl⟩ | ⟨a, rfl⟩⟩ := startupOp_next h
    · rw [startSend_cfg, hs]
    · rw [goOn_cfg, hs]

/-- Settles O54: the check comes first, and nothing a step does writes the configuration. -/
theorem stepChecksAndKeepsTheConfiguration : Obligations.StepChecksAndKeepsTheConfiguration :=
  ⟨fun _ => step_unchecked, fun s _ h => ⟨step_next_configOk h, (keptByMoves_cfg s.cfg).step rfl h⟩⟩

end Sys2Proof.Machine

/-! # The invariants of the Transport Engine (spec/40_transport.md section 6) -/

namespace Sys2Proof.Machine

/-- Settles O29: at power-on the link is idle, nothing is armed and the queue is empty. -/
theorem transportPowerOnMeetsInvariants : Obligations.TransportPowerOnMeetsInvariants := by
  intro cfg
  constructor <;> simp [State.powerOn, Link.isTx, MainPos.inProcedure]

/-! ## Steps that leave the transport alone but for the queue -/

/-- From `s` to `t` nothing of the transport has changed, but bytes may have been taken off the queue. -/
def Drained (s t : State) : Prop :=
  t.cfg = s.cfg ∧ ∃ q, t.tr = { s.tr with rq := q } ∧ q.length ≤ s.tr.rq.length

theorem Drained.of_tr_eq {s t : State} (hcfg : t.cfg = s.cfg) (htr : t.tr = s.tr) : Drained s t :=
  ⟨hcfg, s.tr.rq, htr, le_rfl⟩

theorem Drained.of_rq_nil {s t : State} (hcfg : t.cfg = s.cfg) (htr : t.tr = { s.tr with rq := [] }) : Drained s t :=
  ⟨hcfg, [], htr, Nat.zero_le _⟩

theorem cmdReturn_drained (k : CmdCaller) (v : BitVec 9) (s : State) : Drained s (cmdReturn k v s) := by
  obtain ⟨hcfg, -, -, htr | htr⟩ := cmdReturn_keeps k v s
  · exact .of_tr_eq hcfg htr
  · exact .of_rq_nil hcfg htr

theorem sendReturn_drained (c : SendCaller) (s : State) : Drained s (sendReturn c s) := by
  unfold sendReturn
  split
  · exact .of_tr_eq rfl rfl
  · split <;> exact .of_tr_eq rfl rfl
  · exact .of_tr_eq rfl rfl
  · exact cmdReturn_drained ..

theorem respStep_drained (k : CmdCaller) (s : State) : Drained s (respStep k s) := by
  rw [respStep_eq]
  obtain ⟨hcfg, q, htr, hq⟩ := cmdReturn_drained k (s.tr.rq.head?.elim noResponse responseOf) (responseTaken s)
  exact ⟨hcfg, q, htr, hq.trans (by simp [responseTaken])⟩

theorem bootPollStep_drained (n p : Nat) (s : State) : Drained s (bootPollStep n p s) := by
  unfold bootPollStep
  split
  · next rest hrest => exact ⟨rfl, rest, rfl, afterSuccess_length hrest⟩
  · dsimp only
    split <;> exact .of_rq_nil rfl rfl

theorem startupStep_drained {a : After} {s t : State} (h : startupStep a s = .next t) :
    Drained s t ∧ t.main.inProcedure = false := by
  cases a with
  | firmware => cases h; exact ⟨.of_tr_eq rfl rfl, rfl⟩
  | startZero z m =>
    obtain ⟨hcfg, htr, -, -, hmain | hmain⟩ := zeroOp_next h
    · exact ⟨.of_tr_eq hcfg htr, by rw [hmain]; rfl⟩
    · exact ⟨.of_tr_eq hcfg htr, by rw [hmain]; rfl⟩
  | startInit m => cases h; exact ⟨.of_tr_eq (by simp) (by simp), rfl⟩

/-- What a step of MAIN does to the transport: nothing at all; the request-to-send that ends phase 1 (R124); or bytes are
taken off the queue, and then MAIN was not waiting for the end of a transmit. -/
theorem mainStep_transport {s t : State} (h : mainStep s = .next t) :
    t = s ∨ (∃ b c, s.main = .sendWait b c ∧ s.tr.link = .idle ∧ t = requested b c s) ∨
      (Drained s t ∧ (s.main.inPhase3 = true → s.tr.link = .idle) ∧
        (t.main.inProcedure = true → s.main.inProcedure = true)) := by
  cases hmain : s.main with
  | idle => rw [mainStep, hmain] at h; cases h; exact .inl rfl
  | sendWait b c =>
    rw [mainStep_sendWait hmain] at h
    split at h
    · cases h; exact .inr (.inl ⟨b, c, rfl, ‹_›, rfl⟩)
    · cases h; exact .inl rfl
  | sendDone c =>
    rw [mainStep_sendDone hmain] at h
    split at h
    · next hidle => cases h; exact .inr (.inr ⟨sendReturn_drained c s, fun _ => hidle, fun _ => rfl⟩)
    · cases h; exact .inl rfl
  | respDelay k =>
    rw [mainStep, hmain] at h
    cases h
    exact .inr (.inr ⟨respStep_drained k s, nofun, fun _ => rfl⟩)
  | bootPoll n p =>
    rw [mainStep, hmain] at h
    cases h
    exact .inr (.inr ⟨bootPollStep_drained n p s, nofun, fun _ => rfl⟩)
  | bootStatus =>
    rw [mainStep, hmain] at h
    cases h
    exact .inr (.inr ⟨.of_rq_nil rfl rfl, nofun, fun _ => rfl⟩)
  | moveB btn =>
    rw [mainStep, hmain] at h
    cases h
    exact .inr (.inr ⟨.of_tr_eq (by simp) (by simp), nofun, nofun⟩)
  | zeroB a =>
    rw [mainStep, hmain] at h
    cases h
    exact .inr (.inr ⟨.of_tr_eq (by simp) (by simp), nofun, by cases a <;> exact nofun⟩)
  | startup a =>
    rw [mainStep, hmain] at h
    obtain ⟨hdrained, hproc⟩ := startupStep_drained h
    exact .inr (.inr ⟨hdrained, nofun, by simp [hproc]⟩)

/-- `T.INIT` leaves a state that meets the invariants, whatever state it finds (R120). -/
theorem transportInv_initialised (s : State) : TransportInv (initialised s) := by
  constructor <;> simp [initialised, Link.isTx, MainPos.inProcedure]

/-- A byte of the frame leaves MAIN free, or before the second target write (R181, R69). -/
theorem frameByte_main {b : Byte} {s t : State} (h : frameByte b s = .next t) : t.main.inProcedure = false := by
  unfold frameByte at h
  split at h
  · cases h; rfl
  · cases h; rfl
  · obtain ⟨-, -, -, -, hmain | hmain⟩ := moveOp_next h <;> rw [hmain] <;> rfl

namespace TransportInv

variable {s t : State} (hs : TransportInv s)
include hs

/-- With MAIN free no transmit is running (R121). -/
theorem not_isTx_of_free (hfree : s.main = .idle) : s.tr.link.isTx = false := by
  refine eq_false_of_ne_true fun htx => ?_
  have hheld := hs.txHeld htx
  rw [hfree] at hheld
  cases hheld

/-- Outside a transmit MAIN may go anywhere in its procedures, and take bytes off the queue. -/
theorem drained (hd : Drained s t) (hquiet : s.tr.link.isTx = false)
    (hproc : t.main.inProcedure = true → s.tr.inited = true) : TransportInv t := by
  obtain ⟨hcfg, q, htr, hq⟩ := hd
  constructor
  case errorState => rw [htr]; exact hs.errorState
  case txState => rw [htr]; exact hs.txState
  case rxBit => rw [htr]; exact hs.rxBit
  case txBit => rw [htr]; exact hs.txBit
  case queue => rw [htr, hcfg]; exact hq.trans hs.queue
  case dataLow => rw [htr]; exact hs.dataLow
  case recoveryMode => rw [htr]; exact hs.recoveryMode
  case watchdogMode => rw [htr]; exact hs.watchdogMode
  case armed => rw [htr]; exact hs.armed
  case txHeld => rw [htr]; exact fun htx => absurd htx (ne_true_of_eq_false hquiet)
  case procedure => rw [htr]; exact hproc

/-- The request-to-send (R124). -/
theorem requested (hinit : s.tr.inited = true) (b : Byte) (c : SendCaller) : TransportInv (requested b c s) := by
  constructor <;> simp [Machine.requested, Link.isTx, Link.drivesData, MainPos.inPhase3, hinit, hs.queue]

/-- A call of `T.SEND` (R124). -/
theorem startSend (hfree : s.main = .idle) (hinit : s.tr.inited = true) (b : Byte) (c : SendCaller) :
    TransportInv (startSend b c s) := by
  by_cases hidle : s.tr.link = .idle
  · rw [startSend_idle hidle]
    exact hs.requested hinit b c
  · rw [startSend_held hidle]
    exact hs.drained (.of_tr_eq rfl rfl) (hs.not_isTx_of_free hfree) fun _ => hinit

theorem mainStep (h : mainStep s = .next t) : TransportInv t := by
  obtain rfl | ⟨b, c, hmain, hidle, rfl⟩ | ⟨hd, hphase3, hproc⟩ := mainStep_transport h
  · exact hs
  · exact hs.requested (hs.procedure (by rw [hmain]; rfl)) b c
  · refine hs.drained hd (eq_false_of_ne_true fun htx => ?_) fun hp => hs.procedure (hproc hp)
    rw [hphase3 (hs.txHeld htx)] at htx
    cases htx

/-! ## Edges and timer events -/

/-- The error entry (R140), which only happens after `T.INIT`. -/
theorem errored (hinit : s.tr.inited = true) (c : Cause) : TransportInv (errored c s) := by
  constructor <;> simp [Machine.errored, Link.isTx, hinit, hs.queue]

/-- An edge that goes on from one link state to the next, inside a frame or inside a transmit. -/
theorem advance {tr : Transport} {l : List TraceEvent} (hrq : tr.rq.length ≤ s.cfg.rqCap)
    (hkeep : tr.edgeEn = s.tr.edgeEn ∧ tr.clkDrv = s.tr.clkDrv ∧ tr.tmode = s.tr.tmode ∧ tr.inited = s.tr.inited)
    (herror : s.tr.link ≠ .error) (hlink : tr.link ≠ .error) (htx : tr.link.isTx = s.tr.link.isTx)
    (hrx : tr.link = .rxData → tr.bitn.toNat ≤ 7)
    (htxd : tr.link = .txData → 1 ≤ tr.bitn.toNat ∧ tr.bitn.toNat ≤ 7)
    (hdata : tr.dataDrv = .low → tr.link.drivesData = true) : TransportInv { s with tr := tr, trace := l } := by
  obtain ⟨hedge, hclk, hmode, hinit⟩ := hkeep
  constructor
  case errorState => exact fun h => absurd h hlink
  case txState => simpa only [hmode, hedge, htx] using hs.txState
  case rxBit => exact hrx
  case txBit => exact htxd
  case queue => exact hrq
  case dataLow => exact hdata
  case recoveryMode => exact fun h => absurd (hs.recoveryMode (hmode ▸ h)).1 herror
  case watchdogMode => simpa only [hmode, htx] using hs.watchdogMode
  case armed => simpa only [hedge, hclk, hinit] using hs.armed
  case txHeld => simpa only [htx] using hs.txHeld
  case procedure => simpa only [hinit] using hs.procedure

/-- In a state in which the host never drives DATA low, DATA is released (R164 (e)). -/
theorem dataDrv_ne_low (hlink : s.tr.link.drivesData = false) : s.tr.dataDrv ≠ .low := fun hlow =>
  absurd (hs.dataLow hlow) (ne_true_of_eq_false hlink)

/-- An edge while receiving (R130 to R133). -/
theorem takeFall_receive (hcap : 1 ≤ s.cfg.rqCap) (harm : s.tr.edgeEn = true)
    (hrx : s.tr.link = .idle ∨ s.tr.link.isRx = true) (d : Bool) : TransportInv (Machine.takeFall d s) := by
  have hinit := (hs.armed harm).2
  have hdata : s.tr.dataDrv ≠ .low := hs.dataDrv_ne_low (by revert hrx; cases s.tr.link <;> decide)
  cases hlink : s.tr.link with
  | idle =>
    rw [takeFall_idle harm d hlink]
    cases d with
    | false => apply hs.advance <;> simp [hs.queue, hlink, hdata, Link.isTx]
    | true => exact hs.errored hinit .start
  | rxData =>
    rw [takeFall_rxData harm d hlink, fallRxData]
    have hbit := hs.rxBit hlink
    by_cases hlast : s.tr.bitn + 1 = 8
    · rw [if_pos hlast]
      apply hs.advance <;> simp [hs.queue, hlink, hdata, Link.isTx]
    · rw [if_neg hlast]
      have hne := mt (bitn_add_one_eq_eight_iff _).2 hlast
      have hnext : (s.tr.bitn.toNat + 1) % 16 ≤ 7 := by omega
      apply hs.advance <;> simp [hs.queue, hlink, hdata, Link.isTx, hnext]
  | rxParity =>
    rw [takeFall_rxParity harm d hlink, fallRxParity]
    split
    · apply hs.advance <;> simp [hs.queue, hlink, hdata, Link.isTx]
    · exact hs.errored hinit .parity
  | rxStop =>
    rw [takeFall_rxStop harm d hlink]
    cases d with
    | true => apply hs.advance <;> simp [pushed_length s.tr.rxsh hs.queue hcap, hlink, hdata, Link.isTx]
    | false => exact hs.errored hinit .stop
  | _ => simp [hlink, Link.isRx] at hrx

/-- An edge of a transmit (R150 to R156). -/
theorem takeFall_transmit (harm : s.tr.edgeEn = true) (htx : s.tr.link.isTx = true) (d : Bool) :
    TransportInv (Machine.takeFall d s) := by
  have hinit := (hs.armed harm).2
  cases hlink : s.tr.link with
  | txRequest =>
    rw [takeFall_txRequest harm d hlink]
    apply hs.advance <;> simp [hs.queue, hlink, Link.isTx, Link.drivesData]
  | txData =>
    rw [takeFall_txData harm d hlink, fallTxData_eq hlink]
    have hbit := hs.txBit hlink
    by_cases hlast : s.tr.bitn.toNat = 7
    · apply hs.advance <;> simp [hs.queue, hlink, hlast, Link.isTx, Link.drivesData]
    · have hnext : 1 ≤ (s.tr.bitn.toNat + 1) % 16 ∧ (s.tr.bitn.toNat + 1) % 16 ≤ 7 := by omega
      apply hs.advance <;> simp [hs.queue, hlink, hlast, Link.isTx, Link.drivesData, hnext]
  | txParity =>
    rw [takeFall_txParity harm d hlink]
    apply hs.advance <;> simp [hs.queue, hlink, Link.isTx, Link.drivesData]
  | txStop =>
    rw [takeFall_txStop harm d hlink]
    apply hs.advance <;> simp [hs.queue, hlink, Link.isTx]
  | txAck =>
    rw [takeFall_txAck harm d hlink]
    have hdata := hs.dataDrv_ne_low (by rw [hlink]; rfl)
    cases d with
    | false => apply hs.advance <;> simp [hs.queue, hlink, hdata, Link.isTx]
    | true => exact hs.errored hinit .ack
  | txEnd => rw [takeFall_txEnd hlink]; exact hs
  | _ => simp [hlink, Link.isTx] at htx

theorem takeFall (hcap : 1 ≤ s.cfg.rqCap) (d : Bool) : TransportInv (takeFall d s) := by
  cases harm : s.tr.edgeEn with
  | false => rw [takeFall_disarmed harm]; exact hs
  | true =>
    cases htx : s.tr.link.isTx with
    | true => exact hs.takeFall_transmit harm htx d
    | false =>
      refine hs.takeFall_receive hcap harm ?_ d
      have hlink : s.tr.link ≠ .error := fun herror => by
        rw [(hs.errorState herror).1] at harm
        cases harm
      revert htx hlink
      cases s.tr.link <;> decide

theorem takeFalls (hcap : 1 ≤ s.cfg.rqCap) (ds : List Bool) : TransportInv (takeFalls ds s) := by
  induction ds generalizing s with
  | nil => exact hs
  | cons d ds ih => exact ih (hs.takeFall hcap d) (by rw [(takeFall_keeps d s).1]; exact hcap)

theorem timerTick : TransportInv (timerTick s) := by
  cases hmode : s.tr.tmode with
  | off => rw [timerTick_off hmode]; exact hs
  | recovery =>
    obtain ⟨herror, hinit⟩ := hs.recoveryMode hmode
    have hdata := hs.dataDrv_ne_low (by rw [herror]; rfl)
    rw [timerTick_recovery hmode]
    constructor <;> simp [recover, Link.isTx, hinit, hdata, hs.queue]
  | watchdog =>
    have htx := hs.watchdogMode hmode
    have hinit := (hs.armed (hs.txState htx).2).2
    rw [timerTick_watchdog hmode]
    by_cases hlimit : s.tr.barks + 1 < s.cfg.barkLimit
    · rw [bark_below_limit htx hlimit]
      exact ⟨hs.errorState, hs.txState, hs.rxBit, hs.txBit, hs.queue, hs.dataLow, hs.recoveryMode, hs.watchdogMode,
        hs.armed, hs.txHeld, hs.procedure⟩
    · rw [bark_limit htx (by omega)]
      exact hs.errored hinit .watchdog

theorem busIdle : TransportInv (busIdle s) := by
  unfold Machine.busIdle
  split
  · next hend =>
    have hdata := hs.dataDrv_ne_low (by rw [hend.2]; rfl)
    constructor <;> simp [Link.isTx, hdata, hs.queue, hend.1]
    exact fun harm => (hs.armed harm).1
  · exact hs

/-! ## Host operations -/

theorem enableReceive (hfree : s.main = .idle) (hinit : s.tr.inited = true) : TransportInv (enableReceive s) := by
  constructor <;> simp [Machine.enableReceive, Link.isTx, hfree, hinit, hs.queue, MainPos.inProcedure]

theorem disableReceive (hfree : s.main = .idle) (hinit : s.tr.inited = true) : TransportInv (disableReceive s) := by
  have htx := hs.not_isTx_of_free hfree
  constructor <;> simp [Machine.disableReceive, htx, hfree, hinit, MainPos.inProcedure]
  case errorState => exact fun herror => (hs.errorState herror).2.2
  case rxBit => exact hs.rxBit
  case txBit => exact hs.txBit
  case queue => exact hs.queue
  case dataLow => exact hs.dataLow
  case recoveryMode => exact fun hmode => (hs.recoveryMode hmode).1
  case watchdogMode => exact fun hmode => by rw [hs.watchdogMode hmode] at htx; cases htx

/-- MAIN's position is free again, or it stands in a call that is no procedure of the transport. -/
theorem of_tr_eq (hfree : s.main = .idle) (hcfg : t.cfg = s.cfg) (htr : t.tr = s.tr)
    (hproc : t.main.inProcedure = false) : TransportInv t :=
  hs.drained (.of_tr_eq hcfg htr) (hs.not_isTx_of_free hfree) (by simp [hproc])

/-- An event of the emulator. -/
theorem of_event (hcfg : t.cfg = s.cfg) (htr : t.tr = s.tr) (hmain : t.main = s.main) : TransportInv t := by
  obtain ⟨cfg, tr, ses, em, main, ret, trace, preempt, inputs⟩ := t
  dsimp only at hcfg htr hmain
  subst hcfg htr hmain
  exact ⟨hs.errorState, hs.txState, hs.rxBit, hs.txBit, hs.queue, hs.dataLow, hs.recoveryMode, hs.watchdogMode,
    hs.armed, hs.txHeld, hs.procedure⟩

theorem exec {i : Instr} (hcap : 1 ≤ s.cfg.rqCap) (h : exec i s = .next t) : TransportInv t := by
  cases i with
  | tInit => rw [exec_tInit (exec_next_free h rfl)] at h; cases h; exact transportInv_initialised s
  | tEnrx e =>
    obtain ⟨hfree, hinit, hbody⟩ := transportOp_next h
    cases hbody
    cases e with
    | true => exact (hs.enableReceive hfree hinit).of_tr_eq hfree rfl rfl rfl
    | false => exact (hs.disableReceive hfree hinit).of_tr_eq hfree rfl rfl rfl
  | tAvail | tBusy =>
    obtain ⟨hfree, -, hbody⟩ := transportOp_next h
    cases hbody
    exact hs.of_tr_eq hfree rfl rfl rfl
  | tGet =>
    obtain ⟨hfree, b, rest, hrq, rfl⟩ := execTGet_next h
    exact hs.drained ⟨rfl, rest, rfl, by simp [hrq]⟩ (hs.not_isTx_of_free hfree) nofun
  | tSend | sBoot | sCmd | cmdReset | cmdDisable | cmdEnable | cmdScale21 | cmdSetres | cmdStatus =>
    obtain ⟨hfree, hinit, hbody⟩ := transportOp_next h
    cases hbody
    exact hs.startSend hfree hinit ..
  | sSetres r =>
    obtain ⟨hfree, hinit, hbody⟩ := transportOp_next h
    obtain ⟨-, rfl⟩ := setResOp_next hbody
    exact hs.startSend hfree hinit ..
  | evFall d => cases h; exact hs.takeFall hcap d
  | rspBatOk | rspAck | rspId => cases h; exact hs.takeFalls hcap _
  | evTtmr => cases h; exact hs.timerTick
  | evBidle => cases h; exact hs.busIdle
  | evSync | evTck | evPulse => cases h; exact hs.of_event (by simp) (by simp) (by simp)
  | sDecode =>
    have hfree := exec_next_free h rfl
    rw [exec_sDecode hfree] at h
    cases h
    exact hs.of_tr_eq hfree rfl rfl rfl
  | eInit m =>
    have hfree := exec_next_free h rfl
    rw [exec_eInit hfree] at h
    cases h
    exact hs.of_tr_eq hfree (by simp) (by simp) rfl
  | eZero z =>
    obtain ⟨hfree, hbody⟩ := onMain_next h
    obtain ⟨hcfg, htr, -, -, hmain | hmain⟩ := zeroOp_next hbody <;>
      exact hs.of_tr_eq hfree hcfg htr (by rw [hmain]; rfl)
  | eMove dx dy btn =>
    obtain ⟨hfree, hbody⟩ := onMain_next h
    obtain ⟨hcfg, htr, -, -, hmain | hmain⟩ := moveOp_next hbody <;>
      exact hs.of_tr_eq hfree hcfg htr (by rw [hmain]; rfl)
  | sPoll =>
    obtain ⟨hfree, -, rfl | ⟨b, rest, hrq, rfl | hframe⟩⟩ := execSPoll_next h
    · exact hs.of_tr_eq hfree rfl rfl rfl
    · exact hs.drained ⟨rfl, rest, rfl, by simp [hrq]⟩ (hs.not_isTx_of_free hfree) nofun
    · have hcfg := frameByte_cfg hframe
      have htr := frameByte_tr hframe
      exact hs.drained ⟨hcfg, rest, htr, by simp [hrq]⟩ (hs.not_isTx_of_free hfree) (by simp [frameByte_main hframe])

end TransportInv

theorem keptByMoves_transportInv : KeptByMoves TransportInv where
  schedule _ _ _ hs := hs.of_event rfl rfl rfl
  main _ _ _ hs h := hs.mainStep h
  exec _ _ _ hok hs h := hs.exec (configOk_bounds hok).2.2.2 h
  flush s t _ hs h := by
    obtain ⟨hfree, -, rfl⟩ := flushOp_next h
    exact hs.drained (.of_rq_nil rfl rfl) (hs.not_isTx_of_free hfree) nofun
  startup s t _ hs h := by
    obtain ⟨hfree, ⟨hinit, r, a, rfl⟩ | ⟨a, rfl⟩⟩ := startupOp_next h
    · exact hs.startSend hfree hinit ..
    · exact hs.of_tr_eq hfree (goOn_cfg a s) (goOn_tr a s) (by cases a <;> rfl)

/-- Settles O28, from what every part of a step keeps. -/
theorem transportStepKeepsItsInvariants : Obligations.TransportStepKeepsItsInvariants :=
  fun _ _ => keptByMoves_transportInv.step

end Sys2Proof.Machine

/-! # Output emulator (spec/42_output.md): targets, moves and zero points, and the invariants -/

namespace Sys2Proof.Machine

/-! ## Targets (R215, R8) -/

/-- Settles O47: the target is the zero point and a part that grows with the counter, up to the largest target. -/
theorem targetsFitTheWindow : Obligations.TargetsFitTheWindow := by
  intro cfg z c d hz hcd hd
  obtain ⟨-, hpos, hwidth, hperiod⟩ := zeroWellFormed_bounds hz
  have hmax := target_le_maxTarget cfg z hd
  have hmono : scaled cfg c ≤ scaled cfg d := Nat.div_le_div_right (Nat.mul_le_mul_right _ hcd)
  refine ⟨hpos.trans (Nat.le_add_right z _), Nat.add_le_add_left hmono z, by omega, by omega⟩

/-! ## What the shared operations leave in the emulator -/

theorem analogMoveB_em (btn : BitVec 3) (s : State) :
    (analogMoveB btn s).em =
      { s.em with
        tgtY := inWidth s.cfg (target s.cfg s.em.zero s.em.cntY.toNat), sw0 := switchOf (btn.getLsbD 0),
        sw1 := switchOf (btn.getLsbD 1), sw2 := switchOf (btn.getLsbD 2) } := rfl

/-- R221: a move in Analog mode, in one step or, where other agents will step in between, up to the second write. -/
theorem moveOp_analog {s : State} (hinit : s.em.inited = true) (hmode : s.em.mode = .analog) (dx dy : Int)
    (btn : BitVec 3) :
    moveOp dx dy btn s =
      if s.preempt then .next { latchX (moveCounters dx dy s) with preempt := false, main := .moveB btn }
      else .next (finish .unit (analogMoveB btn (latchX (moveCounters dx dy s)))) := by
  simp [moveOp, hinit, hmode]

/-- What `E.MOVE` answers (R220 to R222). -/
theorem moveOp_cases {dx dy : Int} {btn : BitVec 3} {s t : State} (h : moveOp dx dy btn s = .next t) :
    s.em.inited = true ∧
      ((s.em.mode = .analog ∧
          (t = { latchX (moveCounters dx dy s) with preempt := false, main := .moveB btn } ∨
            t = finish .unit (analogMoveB btn (latchX (moveCounters dx dy s))))) ∨
        (s.em.mode = .joystick ∧ t = finish .unit (joystickMove dx dy btn (moveCounters dx dy s)))) := by
  have hinit : s.em.inited = true := by
    refine eq_true_of_ne_false fun hinit => ?_
    simp [moveOp, hinit] at h
  refine ⟨hinit, ?_⟩
  cases hmode : s.em.mode with
  | analog =>
    rw [moveOp_analog hinit hmode] at h
    split at h
    · cases h; exact .inl ⟨rfl, .inl rfl⟩
    · cases h; exact .inl ⟨rfl, .inr rfl⟩
  | joystick => rw [moveOp_joystick hinit hmode] at h; cases h; exact .inr ⟨rfl, rfl⟩

/-- What `E.ZERO` answers (R211). -/
theorem zeroOp_cases {z : Nat} {a : After} {s t : State} (h : zeroOp z a s = .next t) :
    zeroWellFormed s.cfg z = true ∧
      ((s.em.inited = false ∧ t = goOn a { s with em.zero := z }) ∨
        (s.em.inited = true ∧
          (t = { latchX { s with em.zero := z } with preempt := false, main := .zeroB a } ∨
            t = goOn a (latchY (latchX { s with em.zero := z }))))) := by
  unfold zeroOp at h
  split at h
  · next hz =>
    refine ⟨hz, ?_⟩
    dsimp only at h
    split at h
    · next hinit =>
      split at h
      · cases h; exact .inr ⟨hinit, .inl rfl⟩
      · cases h; exact .inr ⟨hinit, .inr rfl⟩
    · next hinit => cases h; exact .inl ⟨eq_false_of_ne_true hinit, rfl⟩
  · cases h

/-! ## The invariants (R230, R222, R234, R8) -/

/-- Settles O49: at power-on every line is released, nothing runs, and the zero point is the checked default. -/
theorem emulatorPowerOnMeetsInvariants : Obligations.EmulatorPowerOnMeetsInvariants := by
  intro cfg hok
  obtain ⟨hz, hmod, -, -⟩ := configOk_bounds hok
  constructor <;> simp [State.powerOn, MainPos.midMove, MainPos.midLatch, hz]
  omega

/-- Only `E.MOVE` and `E.ZERO` stop between two target writes. -/
theorem midLatch_of_midMove {m : MainPos} (h : m.midMove = true) : m.midLatch = true := by
  cases m with
  | moveB => rfl
  | _ => cases h

/-- The direction outputs of one axis follow the two signs of one delta (R222). -/
theorem not_both_asserted (v : Int) :
    ¬((if 0 < v then Drv.low else .rel) = .low ∧ (if v < 0 then Drv.low else .rel) = .low) := by
  rintro ⟨hpos, hneg⟩
  split at hpos
  · rw [if_neg (by omega)] at hneg
    cases hneg
  · cases hpos

namespace EmulatorInv

variable {s t : State} (hs : EmulatorInv s)
include hs

/-- Nothing of the emulator has changed, nor has MAIN moved. -/
theorem of_eq (hcfg : t.cfg = s.cfg) (hem : t.em = s.em) (hmain : t.main = s.main) : EmulatorInv t := by
  obtain ⟨cfg, tr, ses, em, main, ret, trace, preempt, inputs⟩ := t
  dsimp only at hcfg hem hmain
  subst hcfg hem hmain
  exact ⟨hs.syncMode, hs.countMode, hs.pulseMode, hs.analogLines, hs.joystickLines, hs.horizontal, hs.vertical,
    hs.zeroPoint, hs.targetX, hs.targetY, hs.midMove, hs.midLatch, hs.counters, hs.widths⟩

/-- MAIN goes to a place that is not between two target writes, where the Y target is that of its counter. -/
theorem leave_of_targetY (hcfg : t.cfg = s.cfg) (hem : t.em = s.em) (hmain : t.main.midLatch = false)
    (hy : s.em.inited = true → s.em.tgtY = target s.cfg s.em.zero s.em.cntY.toNat) : EmulatorInv t := by
  obtain ⟨cfg, tr, ses, em, main, ret, trace, preempt, inputs⟩ := t
  dsimp only at hcfg hem hmain
  subst hcfg hem
  have hmove : ¬ main.midMove = true := fun h => by rw [midLatch_of_midMove h] at hmain; cases hmain
  exact ⟨hs.syncMode, hs.countMode, hs.pulseMode, hs.analogLines, hs.joystickLines, hs.horizontal, hs.vertical,
    hs.zeroPoint, hs.targetX, fun hinit _ => hy hinit, fun h => absurd h hmove,
    fun h => absurd h (ne_true_of_eq_false hmain), hs.counters, hs.widths⟩

theorem leave (hcfg : t.cfg = s.cfg) (hem : t.em = s.em) (hs' : s.main.midLatch = false)
    (hmain : t.main.midLatch = false) : EmulatorInv t :=
  hs.leave_of_targetY hcfg hem hmain fun hinit => hs.targetY hinit hs'

/-! ## `E.INIT`, `E.ZERO` and `T.INIT` -/

/-- `T.INIT` clears `SYNC_EN` (R120). -/
theorem initialised (hfree : s.main = .idle) : EmulatorInv (initialised s) :=
  ⟨nofun, hs.countMode, hs.pulseMode, hs.analogLines, hs.joystickLines, hs.horizontal, hs.vertical, hs.zeroPoint,
    hs.targetX, fun hinit _ => hs.targetY hinit (by rw [hfree]; rfl), nofun, nofun, hs.counters, hs.widths⟩

theorem finish_initEmulator (m : Mode) : EmulatorInv (finish .unit (initEmulator m s)) := by
  have hpos : 0 < s.cfg.cntMod := by have := hs.counters.1; omega
  have hzero := inWidth_zero hs.zeroPoint
  have hlt := inWidth_lt s.cfg s.em.zero
  rw [initEmulator_eq]
  constructor <;>
    simp [clearedEmulator, MainPos.midMove, MainPos.midLatch, hs.zeroPoint, hpos, hzero, hzero ▸ hlt]

/-- The second target write, with which MAIN leaves `E.ZERO` (R211). -/
theorem latchY (hcfg : t.cfg = s.cfg) (hem : t.em = (latchY s).em) (hmain : t.main.midLatch = false) :
    EmulatorInv t := by
  have htarget := inWidth_target hs.zeroPoint hs.counters.2
  obtain ⟨-, -, htcnt, hcmpX, hcmpY⟩ := hs.widths
  have hlatched : EmulatorInv (Machine.latchY s) :=
    ⟨hs.syncMode, hs.countMode, hs.pulseMode, hs.analogLines, hs.joystickLines, hs.horizontal, hs.vertical,
      hs.zeroPoint, hs.targetX, fun _ _ => htarget, hs.midMove, hs.midLatch, hs.counters,
      hs.widths.1, inWidth_lt .., htcnt, hcmpX, hcmpY⟩
  exact hlatched.leave_of_targetY hcfg hem hmain fun _ => htarget

/-- The zero point before `E.INIT` (R211). -/
theorem setZero {z : Nat} (hz : zeroWellFormed s.cfg z = true) (hinit : s.em.inited = false) :
    EmulatorInv { s with em.zero := z } :=
  ⟨hs.syncMode, hs.countMode, hs.pulseMode, hs.analogLines, hs.joystickLines, hs.horizontal, hs.vertical, hz,
    fun h => absurd h (ne_true_of_eq_false hinit), fun h => absurd h (ne_true_of_eq_false hinit), hs.midMove,
    hs.midLatch, hs.counters, hs.widths⟩

/-- `E.ZERO` up to the second target write (R211, R69). -/
theorem zeroA {z : Nat} (hz : zeroWellFormed s.cfg z = true) (hinit : s.em.inited = true) (a : After) (mark : Bool) :
    EmulatorInv { latchX { s with em.zero := z } with preempt := mark, main := .zeroB a } := by
  obtain ⟨-, htgtY, htcnt, hcmpX, hcmpY⟩ := hs.widths
  exact ⟨hs.syncMode, hs.countMode, hs.pulseMode, hs.analogLines, hs.joystickLines, hs.horizontal, hs.vertical, hz,
    fun _ => inWidth_target hz hs.counters.1, nofun, nofun, fun _ => hinit, hs.counters,
    inWidth_lt .., htgtY, htcnt, hcmpX, hcmpY⟩

theorem zeroOp {z : Nat} {a : After} (hmain : s.main.midLatch = false) (h : zeroOp z a s = .next t) :
    EmulatorInv t := by
  have ha : ∀ u : State, (goOn a u).main.midLatch = false := fun u => by cases a <;> rfl
  obtain ⟨hz, ⟨hinit, rfl⟩ | ⟨hinit, rfl | rfl⟩⟩ := zeroOp_cases h
  · exact (hs.setZero hz hinit).leave (goOn_cfg ..) (goOn_em ..) hmain (ha _)
  · exact hs.zeroA hz hinit a false
  · exact (hs.zeroA hz hinit a s.preempt).latchY (goOn_cfg ..) (goOn_em ..) (ha _)

/-! ## `E.MOVE` -/

/-- `E.MOVE` in Analog mode up to the second target write (R221, R69). -/
theorem moveA (hok : configOk s.cfg = true) (hinit : s.em.inited = true) (hmode : s.em.mode = .analog) (dx dy : Int)
    (btn : BitVec 3) (mark : Bool) :
    EmulatorInv { latchX (moveCounters dx dy s) with preempt := mark, main := .moveB btn } := by
  obtain ⟨-, htgtY, htcnt, hcmpX, hcmpY⟩ := hs.widths
  have hx := upd_lt hok s.em.cntX dx
  have hy := upd_lt hok s.em.cntY (signedDy s.cfg dy)
  exact ⟨hs.syncMode, hs.countMode, hs.pulseMode, hs.analogLines, hs.joystickLines, hs.horizontal, hs.vertical,
    hs.zeroPoint, fun _ => inWidth_target hs.zeroPoint hx, nofun, fun _ => ⟨hmode, hinit⟩, fun _ => hinit, ⟨hx, hy⟩,
    inWidth_lt .., htgtY, htcnt, hcmpX, hcmpY⟩

/-- In Analog mode the switches are free (R41). -/
theorem emitButtons (hmode : s.em.mode = .analog) (btn : BitVec 3) : EmulatorInv (emitButtons btn s) :=
  ⟨hs.syncMode, hs.countMode, hs.pulseMode, hs.analogLines, fun h => absurd (hmode.symm.trans h) (by decide),
    hs.horizontal, hs.vertical, hs.zeroPoint, hs.targetX, hs.targetY, hs.midMove, hs.midLatch, hs.counters, hs.widths⟩

/-- The second target write, with which MAIN leaves `E.MOVE` in Analog mode (R221). -/
theorem analogMoveB (hmode : s.em.mode = .analog) (btn : BitVec 3) :
    EmulatorInv (finish .unit (analogMoveB btn s)) :=
  (hs.latchY (t := finish .unit (Machine.latchY s)) rfl rfl rfl).emitButtons hmode btn |>.of_eq rfl rfl rfl

/-- `E.MOVE` in Joystick mode (R222): no delta is both positive and negative. -/
theorem joystickMove (hok : configOk s.cfg = true) (hinit : s.em.inited = true) (hmode : s.em.mode = .joystick)
    (dx dy : Int) (btn : BitVec 3) :
    EmulatorInv (finish .unit (joystickMove dx dy btn (moveCounters dx dy s))) := by
  have hx := upd_lt hok s.em.cntX dx
  have hy := upd_lt hok s.em.cntY (signedDy s.cfg dy)
  have htargetX := inWidth_target hs.zeroPoint hx
  have htargetY := inWidth_target hs.zeroPoint hy
  have hltX := htargetX ▸ inWidth_lt ..
  have hltY := htargetY ▸ inWidth_lt ..
  obtain ⟨-, -, htcnt, hcmpX, hcmpY⟩ := hs.widths
  obtain ⟨hsw0, hsw1, hsw2, hpotY, -⟩ := hs.joystickLines hmode
  have hsync : s.em.syncEn ≠ true := fun h => absurd (hmode.symm.trans (hs.syncMode h).1) (by decide)
  have hcount : s.em.tcntRun ≠ true := fun h => absurd (hmode.symm.trans (hs.countMode h).1) (by decide)
  constructor
  case horizontal => rw [finish_em, joystickMove_em]; exact fun h => not_both_asserted dx h.symm
  case vertical => rw [finish_em, joystickMove_em]; exact not_both_asserted _
  case joystickLines =>
    have hpotX : (if btn.getLsbD s.cfg.auxBit then PotLevel.low else .rel) ≠ .high := by split <;> decide
    simpa [joystickMove_em, hmode, hsw0, hsw1, hsw2, hpotY] using hpotX
  case zeroPoint => simpa [joystickMove_em] using hs.zeroPoint
  all_goals
    simp [joystickMove_em, hmode, hinit, hsync, hcount, hx, hy, hltX, hltY, htcnt, hcmpX, hcmpY, htargetX, htargetY,
      MainPos.midMove, MainPos.midLatch]

theorem moveOp (hok : configOk s.cfg = true) {dx dy : Int} {btn : BitVec 3} (h : moveOp dx dy btn s = .next t) :
    EmulatorInv t := by
  obtain ⟨hinit, ⟨hmode, rfl | rfl⟩ | ⟨hmode, rfl⟩⟩ := moveOp_cases h
  · exact hs.moveA hok hinit hmode dx dy btn false
  · exact ((hs.moveA hok hinit hmode dx dy btn false).analogMoveB hmode btn).of_eq (by simp) rfl rfl
  · exact hs.joystickMove hok hinit hmode dx dy btn

/-! ## Events -/

/-- The synchronization edge is enabled in Analog mode only (R230). -/
theorem syncEdge : EmulatorInv (syncEdge s) := by
  cases hon : s.em.syncEn with
  | false => rw [syncEdge_disabled hon]; exact hs
  | true =>
    obtain ⟨hmode, hinit⟩ := hs.syncMode hon
    obtain ⟨htgtX, htgtY, -⟩ := hs.widths
    rw [syncEdge_enabled hon]
    exact ⟨hs.syncMode, fun _ => ⟨hmode, hinit⟩, hs.pulseMode, hs.analogLines,
      fun h => absurd (hmode.symm.trans h) (by decide), hs.horizontal, hs.vertical, hs.zeroPoint, hs.targetX, hs.targetY,
      hs.midMove, hs.midLatch, hs.counters, htgtX, htgtY, by positivity, htgtX, htgtY⟩

/-- The counter runs in Analog mode only (R231). -/
theorem counterTick : EmulatorInv (counterTick s) := by
  cases hrun : s.em.tcntRun with
  | false => rw [counterTick_stopped hrun]; exact hs
  | true =>
    obtain ⟨hmode, hinit⟩ := hs.countMode hrun
    obtain ⟨htgtX, htgtY, -, hcmpX, hcmpY⟩ := hs.widths
    have hticked : EmulatorInv { s with em := (Machine.counterTick s).em } := by
      rw [counterTick_running_em hrun hmode]
      exact ⟨hs.syncMode, hs.countMode, hs.pulseMode, hs.analogLines,
        fun h => absurd (hmode.symm.trans h) (by decide), hs.horizontal, hs.vertical, hs.zeroPoint, hs.targetX,
        hs.targetY, hs.midMove, hs.midLatch, hs.counters, htgtX, htgtY, inWidth_lt .., hcmpX, hcmpY⟩
    exact hticked.of_eq (counterTick_cfg s) rfl (counterTick_main s)

/-- The pulse runs in Joystick mode only (R232). -/
theorem pulseEnd : EmulatorInv (pulseEnd s) := by
  cases hrun : s.em.pulseRun with
  | false => rw [pulseEnd_stopped hrun]; exact hs
  | true =>
    obtain ⟨hmode, -⟩ := hs.pulseMode hrun
    rw [pulseEnd_running hrun]
    exact ⟨hs.syncMode, hs.countMode, nofun, fun _ => ⟨rfl, rfl, rfl, rfl, rfl⟩, hs.joystickLines,
      (fun h => nomatch h.1), (fun h => nomatch h.1), hs.zeroPoint, hs.targetX, hs.targetY, hs.midMove, hs.midLatch,
      hs.counters, hs.widths⟩

end EmulatorInv

/-! ## Steps that leave the emulator alone -/

theorem cmdReturn_midLatch (k : CmdCaller) (v : BitVec 9) (s : State) : (cmdReturn k v s).main.midLatch = false := by
  unfold cmdReturn
  split
  case h_11 a => cases a <;> rfl
  all_goals rfl

theorem sendReturn_emulator (c : SendCaller) (s : State) :
    (sendReturn c s).em = s.em ∧ (sendReturn c s).main.midLatch = false := by
  unfold sendReturn
  split
  · exact ⟨rfl, rfl⟩
  · split <;> exact ⟨rfl, rfl⟩
  · exact ⟨rfl, rfl⟩
  · exact ⟨(cmdReturn_keeps ..).2.1, cmdReturn_midLatch ..⟩

theorem respStep_emulator (k : CmdCaller) (s : State) :
    (respStep k s).em = s.em ∧ (respStep k s).main.midLatch = false := by
  rw [respStep_eq]
  exact ⟨(cmdReturn_keeps ..).2.1, cmdReturn_midLatch ..⟩

theorem bootPollStep_emulator (n p : Nat) (s : State) :
    (bootPollStep n p s).em = s.em ∧ (bootPollStep n p s).main.midLatch = false := by
  unfold bootPollStep
  split
  · exact ⟨rfl, rfl⟩
  · dsimp only
    split <;> exact ⟨rfl, rfl⟩

theorem startSend_midLatch (b : Byte) (c : SendCaller) (s : State) : (startSend b c s).main.midLatch = false := by
  unfold startSend
  split <;> rfl

/-- An instruction that writes no register of the emulator moves MAIN to no place between two target writes. -/
theorem exec_main {i : Instr} {s t : State} (hem : writesEmulator i = false) (h : exec i s = .next t) :
    t.main = s.main ∨ s.main.midLatch = false ∧ t.main.midLatch = false := by
  cases hop : isMainOp i with
  | false =>
    obtain ⟨u, hu, -, hmain, -⟩ := eventsAlwaysComplete i s hop
    rw [hu] at h
    cases h
    exact .inl hmain
  | true =>
    refine .inr ⟨by rw [exec_next_free h hop]; rfl, ?_⟩
    cases i with
    | tEnrx | tAvail | tBusy => obtain ⟨-, -, hbody⟩ := transportOp_next h; cases hbody; rfl
    | tGet => obtain ⟨-, b, rest, -, rfl⟩ := execTGet_next h; rfl
    | tSend | sBoot | sCmd | cmdReset | cmdDisable | cmdEnable | cmdScale21 | cmdSetres | cmdStatus =>
      obtain ⟨-, -, hbody⟩ := transportOp_next h
      cases hbody
      exact startSend_midLatch ..
    | sSetres r =>
      obtain ⟨-, -, hbody⟩ := transportOp_next h
      obtain ⟨-, rfl⟩ := setResOp_next hbody
      exact startSend_midLatch ..
    | sDecode => rw [exec_sDecode (exec_next_free h rfl)] at h; cases h; rfl
    | tInit | sPoll | eInit | eZero | eMove | evSync | evTck | evPulse => cases hem
    | evFall | evTtmr | evBidle | rspBatOk | rspAck | rspId => exact absurd hop (by simp [isMainOp, agentsOf])

namespace EmulatorInv

variable {s t : State} (hs : EmulatorInv s)
include hs

theorem startupStep {a : After} (hmain : s.main.midLatch = false) (h : startupStep a s = .next t) :
    EmulatorInv t := by
  cases a with
  | firmware => cases h; exact hs.leave rfl rfl hmain rfl
  | startZero z m => exact hs.zeroOp hmain h
  | startInit m => cases h; exact hs.finish_initEmulator m

theorem mainStep (h : mainStep s = .next t) : EmulatorInv t := by
  cases hmain : s.main with
  | idle => rw [Machine.mainStep, hmain] at h; cases h; exact hs
  | sendWait b c =>
    rw [mainStep_sendWait hmain] at h
    split at h
    · cases h; exact hs.leave rfl rfl (by rw [hmain]; rfl) rfl
    · cases h; exact hs
  | sendDone c =>
    rw [mainStep_sendDone hmain] at h
    split at h
    · obtain ⟨hem, hmid⟩ := sendReturn_emulator c s
      cases h
      exact hs.leave (sendReturn_drained c s).1 hem (by rw [hmain]; rfl) hmid
    · cases h; exact hs
  | respDelay k =>
    obtain ⟨hem, hmid⟩ := respStep_emulator k s
    rw [mainStep_respDelay hmain] at h
    cases h
    exact hs.leave (respStep_drained k s).1 hem (by rw [hmain]; rfl) hmid
  | bootPoll n p =>
    obtain ⟨hem, hmid⟩ := bootPollStep_emulator n p s
    rw [Machine.mainStep, hmain] at h
    cases h
    exact hs.leave (bootPollStep_drained n p s).1 hem (by rw [hmain]; rfl) hmid
  | bootStatus => rw [Machine.mainStep, hmain] at h; cases h; exact hs.leave rfl rfl (by rw [hmain]; rfl) rfl
  | moveB btn =>
    rw [Machine.mainStep, hmain] at h
    cases h
    exact hs.analogMoveB (hs.midMove (by rw [hmain]; rfl)).1 btn
  | zeroB a =>
    rw [Machine.mainStep, hmain] at h
    cases h
    exact hs.latchY (goOn_cfg ..) (goOn_em ..) (by cases a <;> rfl)
  | startup a => rw [Machine.mainStep, hmain] at h; exact hs.startupStep (by rw [hmain]; rfl) h

theorem frameByte (hok : configOk s.cfg = true) (hfree : s.main = .idle) {b : Byte} (h : frameByte b s = .next t) :
    EmulatorInv t := by
  have hmid : s.main.midLatch = false := by rw [hfree]; rfl
  unfold Machine.frameByte at h
  split at h
  · cases h; exact hs.leave rfl rfl hmid rfl
  · cases h; exact hs.leave rfl rfl hmid rfl
  · exact (hs.of_eq rfl rfl rfl : EmulatorInv { s with ses.frame2 := b, ses.frameIdx := 0 }).moveOp hok h

theorem exec {i : Instr} (hok : configOk s.cfg = true) (h : exec i s = .next t) : EmulatorInv t := by
  cases hem : writesEmulator i with
  | false =>
    obtain ⟨hcfg, -, hkeep⟩ := exec_keeps h
    obtain hmain | ⟨hmid, hmid'⟩ := exec_main hem h
    · exact hs.of_eq hcfg (hkeep hem) hmain
    · exact hs.leave hcfg (hkeep hem) hmid hmid'
  | true =>
    cases i with
    | tInit =>
      have hfree := exec_next_free h rfl
      rw [exec_tInit hfree] at h
      cases h
      exact hs.initialised hfree
    | eInit m => rw [exec_eInit (exec_next_free h rfl)] at h; cases h; exact hs.finish_initEmulator m
    | eZero z => obtain ⟨hfree, hbody⟩ := onMain_next h; exact hs.zeroOp (by rw [hfree]; rfl) hbody
    | eMove dx dy btn => exact hs.moveOp hok (onMain_next h).2
    | evSync => cases h; exact hs.syncEdge
    | evTck => cases h; exact hs.counterTick
    | evPulse => cases h; exact hs.pulseEnd
    | sPoll =>
      obtain ⟨hfree, -, rfl | ⟨b, rest, hrq, rfl | hframe⟩⟩ := execSPoll_next h
      · exact hs.leave rfl rfl (by rw [hfree]; rfl) rfl
      · exact hs.leave rfl rfl (by rw [hfree]; rfl) rfl
      · exact (hs.of_eq rfl rfl rfl : EmulatorInv { s with tr.rq := rest }).frameByte hok hfree hframe
    | _ => cases hem

end EmulatorInv

theorem keptByMoves_emulatorInv : KeptByMoves EmulatorInv where
  schedule _ _ _ hs := hs.of_eq rfl rfl rfl
  main _ _ _ hs h := hs.mainStep h
  exec _ _ _ hok hs h := hs.exec hok h
  flush s t _ hs h := by
    obtain ⟨hfree, -, rfl⟩ := flushOp_next h
    exact hs.leave rfl rfl (by rw [hfree]; rfl) rfl
  startup s t _ hs h := by
    obtain ⟨hfree, ⟨-, r, a, rfl⟩ | ⟨a, rfl⟩⟩ := startupOp_next h
    · exact hs.leave (startSend_cfg ..) (startSend_em ..) (by rw [hfree]; rfl) (startSend_midLatch ..)
    · exact hs.leave (goOn_cfg ..) (goOn_em ..) (by rw [hfree]; rfl) (by cases a <;> rfl)

/-- Settles O48, from what every part of a step keeps. -/
theorem emulatorStepKeepsItsInvariants : Obligations.EmulatorStepKeepsItsInvariants :=
  fun _ _ => keptByMoves_emulatorInv.step

end Sys2Proof.Machine

/-! # Frames on the wire and the receive queue (spec/30_encoding.md R83, spec/40_transport.md, spec/20_memory.md) -/

namespace Sys2Proof.Machine

theorem runMoves_act {i : Instr} {s t : State} (h : exec i s = .next t) (ms : List Move) :
    runMoves (.act i :: ms) s = runMoves ms t := by
  rw [runMoves, runMove, h]

theorem runMoves_main {s t : State} (h : mainStep s = .next t) (ms : List Move) :
    runMoves (.main :: ms) s = runMoves ms t := by
  rw [runMoves, runMove, h]

/-! ## Received frames (R83, R130 to R133, R61) -/

/-- The nine edges that a good and a bad frame share leave the byte in `RXSH` and the link in `RxParity`. -/
def parityDue (b : Byte) (s : State) : State := { s with tr := { s.tr with rxsh := b, bitn := 8, link := .rxParity } }

/-- The parity bit of the byte that came in (R132). -/
theorem takeFall_goodParity {s : State} (harm : s.tr.edgeEn = true) (b : Byte) :
    takeFall (oddPar b) (parityDue b s) = { parityDue b s with tr.link := .rxStop } := by
  rw [takeFall_rxParity (by exact harm) _ rfl, fallRxParity, if_pos]
  exact (parityOk_eq b (oddPar b)).trans (decide_eq_true rfl)

/-- R83: the eleven edges of a good frame push its byte. -/
theorem takeFalls_frame (b : Byte) {s : State} (harm : s.tr.edgeEn = true) (hlink : s.tr.link = .idle) :
    takeFalls (frameBits b) s =
      { s with tr := { s.tr with rxsh := b, bitn := 0, rq := pushed s.cfg.rqCap s.tr.rq b } } := by
  have hsplit : frameBits b = (frameBits b).take 9 ++ [oddPar b, true] := rfl
  rw [hsplit, takeFalls_append, takeFalls_data b harm hlink, ← parityDue, takeFalls_cons, takeFall_goodParity harm,
    takeFalls_cons, takeFall_rxStop (by exact harm) _ rfl]
  simp [takeFalls, fallRxStop, push, parityDue, hlink]

theorem frameMoves_cons (b : Byte) (bs : List Byte) :
    frameMoves (b :: bs) = fallMoves (frameBits b) ++ frameMoves bs := rfl

/-- Settles O22, by the edges of one frame. -/
theorem receivedFrameIsQueued : Obligations.ReceivedFrameIsQueued := by
  intro s b harm hlink
  rw [frameMoves_cons, runMoves_append (runMoves_fallMoves _ _), takeFalls_frame b harm hlink]
  rfl

theorem newest_of_length_le {cap : Nat} {bs : List Byte} (h : bs.length ≤ cap) : newest cap bs = bs := by
  rw [newest, Nat.sub_eq_zero_of_le h, List.drop_zero]

/-- R61, R64: frames received one after another leave the newest bytes in the queue, and all but it and the receiver's
shift register and bit counter alone. -/
theorem runMoves_frameMoves (bs : List Byte) {s : State} (harm : s.tr.edgeEn = true) (hlink : s.tr.link = .idle)
    (hcap : 1 ≤ s.cfg.rqCap) (hlen : s.tr.rq.length ≤ s.cfg.rqCap) :
    ∃ v n, runMoves (frameMoves bs) s =
      .next { s with tr := { s.tr with rxsh := v, bitn := n, rq := newest s.cfg.rqCap (s.tr.rq ++ bs) } } := by
  induction bs generalizing s with
  | nil =>
    refine ⟨s.tr.rxsh, s.tr.bitn, ?_⟩
    rw [List.append_nil, newest_of_length_le hlen]
    rfl
  | cons b bs ih =>
    rw [frameMoves_cons, runMoves_append (runMoves_fallMoves _ _), takeFalls_frame b harm hlink]
    obtain ⟨v, n, h⟩ := ih
      (s := { s with tr := { s.tr with rxsh := b, bitn := 0, rq := pushed s.cfg.rqCap s.tr.rq b } })
      harm hlink hcap (pushed_length b hlen hcap)
    refine ⟨v, n, ?_⟩
    rw [h, newest_pushed b bs hlen hcap]

/-- Settles O25, from what any list of frames leaves. -/
theorem queueKeepsNewestBytes : Obligations.QueueKeepsNewestBytes := by
  intro s bs harm hlink hcap hlen
  obtain ⟨v, n, h⟩ := runMoves_frameMoves bs harm hlink hcap hlen
  exact ⟨_, h, rfl, hlink, harm⟩

/-! ## Bad frames (R132, R133, R140, R141) -/

theorem takeFalls_badParity (b : Byte) {s : State} (harm : s.tr.edgeEn = true) (hlink : s.tr.link = .idle) :
    takeFalls ((frameBits b).take 9 ++ [!oddPar b]) s = errored .parity (parityDue b s) := by
  rw [takeFalls_append, takeFalls_data b harm hlink, ← parityDue, takeFalls_cons,
    takeFall_rxParity (by exact harm) _ rfl, fallRxParity, if_neg, enterError_eq]
  · rfl
  · rw [parityOk_eq]
    cases hpar : oddPar b <;> simp [parityDue, hpar]

theorem takeFalls_badStop (b : Byte) {s : State} (harm : s.tr.edgeEn = true) (hlink : s.tr.link = .idle) :
    takeFalls ((frameBits b).take 10 ++ [false]) s = errored .stop { parityDue b s with tr.link := .rxStop } := by
  have hsplit : (frameBits b).take 10 ++ [false] = (frameBits b).take 9 ++ [oddPar b, false] := rfl
  rw [hsplit, takeFalls_append, takeFalls_data b harm hlink, ← parityDue, takeFalls_cons, takeFall_goodParity harm,
    takeFalls_cons, takeFall_rxStop (by exact harm) _ rfl]
  rfl

/-- R126, R141: after an error entry edges are lost, and the recovery tick arms reception again. -/
theorem runMoves_errored {s u : State} {bits : List Bool} {c : Cause} (h : takeFalls bits s = errored c u)
    (late : List Bool) :
    runMoves (fallMoves (bits ++ late)) s = .next (errored c u) ∧
      exec .evTtmr (errored c u) = .next (recover (errored c u)) := by
  rw [runMoves_fallMoves, takeFalls_append, h, takeFalls_disarmed late rfl]
  exact ⟨rfl, rfl⟩

/-- Settles O24: each bad frame ends in an error entry, from which the recovery tick returns. -/
theorem badFrameIsDroppedAndRecovered : Obligations.BadFrameIsDroppedAndRecovered := by
  intro s b late harm hlink p hp
  simp only [List.mem_cons, List.not_mem_nil, or_false] at hp
  obtain rfl | rfl := hp
  · obtain ⟨hrun, htick⟩ := runMoves_errored (takeFalls_badParity b harm hlink) late
    exact ⟨_, _, hrun, rfl, rfl, rfl, rfl, rfl, htick, rfl, rfl, rfl, rfl, rfl⟩
  · obtain ⟨hrun, htick⟩ := runMoves_errored (takeFalls_badStop b harm hlink) late
    exact ⟨_, _, hrun, rfl, rfl, rfl, rfl, rfl, htick, rfl, rfl, rfl, rfl, rfl⟩

/-! ## Reading the queue (R67) -/

/-- Settles O26: each `T.GET` before the last takes one of the older bytes. -/
theorem getsReturnInOrder : Obligations.GetsReturnInOrder := by
  intro s older b newer hready hrq
  induction older generalizing s with
  | nil =>
    exact runMoves_act (getTakesOldestByte.2.1 s b newer hready hrq) []
  | cons x older ih =>
    refine (runMoves_act (getTakesOldestByte.2.1 s x _ hready hrq) _).trans ?_
    exact ih { s with tr.rq := older ++ b :: newer, main := .idle, ret := .byte x } ⟨rfl, hready.2⟩ rfl

/-! ## The watchdog (R160) -/

/-- Ticks below the limit only count. -/
theorem runMoves_barks (n : Nat) {s : State} (hmode : s.tr.tmode = .watchdog) (htx : s.tr.link.isTx = true)
    (hlimit : s.tr.barks + n < s.cfg.barkLimit) :
    runMoves (List.replicate n (.act .evTtmr)) s = .next { s with tr.barks := s.tr.barks + n } := by
  induction n generalizing s with
  | zero => rfl
  | succ n ih =>
    have htick : exec .evTtmr s = .next { s with tr.barks := s.tr.barks + 1 } := by
      rw [exec_evTtmr, timerTick_watchdog hmode, bark_below_limit htx (by omega)]
    rw [List.replicate_succ, runMoves_act htick]
    refine (ih (s := { s with tr.barks := s.tr.barks + 1 }) hmode htx (by dsimp only; omega)).trans ?_
    rw [Nat.add_right_comm, Nat.add_assoc]

/-- `T.SEND b` and then `k` ticks, fewer than the limit. -/
theorem runMoves_send_barks {s : State} (hready : readyFor s) (hlink : s.tr.link = .idle) (b : Byte) {k : Nat}
    (hk : k < s.cfg.barkLimit) :
    runMoves (.act (.tSend b) :: List.replicate k (.act .evTtmr)) s =
      .next { requested b .op s with tr.barks := k } := by
  have hsend : exec (.tSend b) s = .next (requested b .op s) := by rw [exec_tSend hready, startSend_idle hlink]
  rw [runMoves_act hsend]
  refine (runMoves_barks k rfl rfl (by simpa [requested] using hk)).trans ?_
  simp [requested]

/-- Settles O27: the request-to-send starts the count at 0, and the tick that reaches the limit is the error. -/
theorem watchdogBoundsTheTransmit : Obligations.WatchdogBoundsTheTransmit := by
  intro s b n hready hlink hpos
  refine ⟨fun hn => ⟨_, runMoves_send_barks hready hlink b hn, rfl, rfl⟩, ?_⟩
  obtain ⟨k, hk⟩ := Nat.exists_eq_add_of_le' hpos
  have htick : exec .evTtmr { requested b .op s with tr.barks := k } =
      .next (errored .watchdog { requested b .op s with tr.barks := k }) := by
    rw [exec_evTtmr, timerTick_watchdog rfl, bark_limit rfl (by simp [requested, hk])]
  have hrun := runMoves_append (runMoves_send_barks hready hlink b (k := k) (by omega)) [.act .evTtmr]
  rw [List.cons_append, ← List.replicate_succ', ← hk] at hrun
  exact ⟨_, hrun.trans (runMoves_act htick []), rfl, rfl⟩

/-! ## Driving a frame (R83, R150 to R157) -/

/-- The link state of a transmit after `k` edges, up to the tenth. -/
def linkAfter (k : Nat) : Link :=
  if k = 0 then .txRequest else if k < 8 then .txData else if k = 8 then .txParity else if k = 9 then .txStop else .txAck

/-- A transmit of `b` after `k` edges: DATA is driven as bit `k` of the frame (R83). -/
structure Driving (b : Byte) (k : Nat) (s : State) : Prop where
  armed : s.tr.edgeEn = true
  txb : s.tr.txb = b
  link : s.tr.link = linkAfter k
  bitn : s.tr.bitn.toNat = min k 8
  data : s.tr.dataDrv = drvOfBit ((frameBits b).getD k true)

theorem driving_requested (b : Byte) (c : SendCaller) (s : State) : Driving b 0 (requested b c s) :=
  ⟨rfl, rfl, rfl, rfl, rfl⟩

theorem frameBits_getD_succ (b : Byte) {k : Nat} (hk : k < 8) : (frameBits b).getD (k + 1) true = b.getLsbD k := by
  interval_cases k <;> rfl

/-- One more edge, at any level of DATA, drives the frame's next bit. -/
theorem Driving.takeFall {b : Byte} {k : Nat} {s : State} (hs : Driving b k s) (hk : k < 10) (d : Bool) :
    Driving b (k + 1) (takeFall d s) := by
  obtain ⟨harm, htxb, hlink, hbitn, -⟩ := hs
  obtain rfl | h | rfl | rfl : k = 0 ∨ (1 ≤ k ∧ k ≤ 7) ∨ k = 8 ∨ k = 9 := by omega
  · rw [takeFall_txRequest harm d hlink]
    exact ⟨harm, htxb, rfl, rfl, congrArg (fun v : Byte => drvOfBit (v.getLsbD 0)) htxb⟩
  · have hlinkData : s.tr.link = .txData := by simpa [linkAfter, show k ≠ 0 by omega, show k < 8 by omega] using hlink
    have hbit : s.tr.bitn.toNat = k := by omega
    rw [takeFall_txData harm d hlinkData, fallTxData_eq hlinkData]
    refine ⟨harm, htxb, ?_, by bv_omega, ?_⟩
    · dsimp only
      rw [hbit, linkAfter]
      split <;> grind
    · dsimp only
      rw [hbit, htxb, frameBits_getD_succ b (by omega)]
  · rw [takeFall_txParity harm d hlink]
    exact ⟨harm, htxb, rfl, hbitn, congrArg (fun v : Byte => drvOfBit (oddPar v)) htxb⟩
  · rw [takeFall_txStop harm d hlink]
    exact ⟨harm, htxb, rfl, hbitn, rfl⟩

theorem Driving.takeFalls {b : Byte} {k : Nat} {s : State} (hs : Driving b k s) (ds : List Bool)
    (hlen : k + ds.length ≤ 10) : Driving b (k + ds.length) (takeFalls ds s) := by
  induction ds generalizing k s with
  | nil => exact hs
  | cons d ds ih =>
    rw [List.length_cons] at hlen ⊢
    rw [takeFalls_cons, Nat.add_comm ds.length, ← Nat.add_assoc]
    exact ih (hs.takeFall (by omega) d) (by omega)

/-- Settles O23: the driven bits by `Driving`, the end of the transmit by the acknowledge and MAIN's step. -/
theorem transmitDrivesTheFrame : Obligations.TransmitDrivesTheFrame := by
  intro s b hready hlink
  have hsend : exec (.tSend b) s = .next (requested b .op s) := by rw [exec_tSend hready, startSend_idle hlink]
  refine ⟨fun ds hlen => ?_, ?_⟩
  · refine ⟨takeFalls ds (requested b .op s), ?_, ?_⟩
    · rw [runMoves_act hsend]
      exact runMoves_fallMoves ds _
    · have hdata := ((driving_requested b .op s).takeFalls ds (by omega)).data
      rwa [Nat.zero_add] at hdata
  · obtain ⟨l, hack⟩ := runMoves_ack b .op hready.2
    rw [List.cons_append, runMoves_act hsend, runMoves_append hack]
    exact ⟨_, runMoves_main (mainStep_sendDone rfl) [], rfl, rfl, rfl, rfl, rfl, rfl, rfl, rfl⟩

/-! ## The rows of the PS/2 bytes (R90) -/

/-- Settles O60: a command byte is a call of `T.SEND`, a response byte is the edges of its frame. -/
theorem wireBytesAreTransferred : Obligations.WireBytesAreTransferred := by
  refine ⟨fun s hready hlink p hp => ?_, fun s harm hlink p hp => ?_⟩
  · have hsend (b : Byte) : sendCommand b s = .next (requested b .op s) := by
      rw [sendCommand, transportOp_ready hready, startSend_idle hlink]
    simp only [List.mem_cons, List.not_mem_nil, or_false] at hp
    obtain rfl | rfl | rfl | rfl | rfl | rfl := hp <;> exact hsend _
  · have hreceive (b : Byte) : receiveResponse b s =
        .next { s with tr := { s.tr with rxsh := b, bitn := 0, rq := pushed s.cfg.rqCap s.tr.rq b } } := by
      rw [receiveResponse, takeFalls_frame b harm hlink]
    simp only [List.mem_cons, List.not_mem_nil, or_false] at hp
    obtain rfl | rfl | rfl := hp <;> exact hreceive _

end Sys2Proof.Machine

/-! # Mouse session (spec/41_session.md): the procedures step by step, and whole runs with a serving device -/

namespace Sys2Proof.Machine

/-! ## `S.BOOT` step by step (R175) -/

/-- R177: what the end of the delay leaves, for a caller that ignores the answer. -/
theorem mainStep_respDelay_eq {s : State} {k : CmdCaller} (hmain : s.main = .respDelay k) :
    mainStep s = .next (cmdReturn k (s.tr.rq.head?.elim noResponse responseOf) (responseTaken s)) := by
  rw [mainStep_respDelay hmain, respStep_eq]

theorem mainStep_bootPoll {s : State} {n p : Nat} (hmain : s.main = .bootPoll n p) :
    mainStep s = .next (bootPollStep n p s) := by
  simp only [mainStep, hmain]

theorem mainStep_bootStatus {s : State} (hmain : s.main = .bootStatus) :
    mainStep s = .next (bootStatusStep s) := by
  simp only [mainStep, hmain]

/-- A poll that finds the success code ends the loop. -/
theorem bootPollStep_success {s : State} {junk rest : List Byte} (n p : Nat)
    (hrq : s.tr.rq = junk ++ s.cfg.rspBatOk :: rest) (hjunk : s.cfg.rspBatOk ∉ junk) :
    bootPollStep n p s = holdCmd s.cfg.cmdDisable (.boot .disable) { s with tr.rq := rest } := by
  simp only [bootPollStep, hrq, afterSuccess_found _ _ _ hjunk]

/-- A poll without it discards the queue, and goes on to the next poll or retries the reset. -/
theorem bootPollStep_absent {s : State} (n p : Nat) (habsent : s.cfg.rspBatOk ∉ s.tr.rq) :
    bootPollStep n p s =
      if p + 1 < s.cfg.bootPolls then { clear s with main := .bootPoll n (p + 1) } else bootRetry n (clear s) := by
  simp only [bootPollStep, afterSuccess_absent _ _ habsent]
  rfl

theorem exec_sBoot {s : State} (hready : readyFor s) :
    exec .sBoot s = .next (startSend s.cfg.cmdReset (.bootReset 1) s) :=
  transportOp_ready hready _

/-- Settles O33: each step of the procedure by the law of MAIN's position in it. -/
theorem bootResetLoop : Obligations.BootResetLoop := by
  refine ⟨fun _ => rfl, fun s hready => ⟨fun hidle => ?_, fun hbusy => ?_⟩,
    fun s n hmain hidle => ⟨fun hpolls => ?_, fun hpolls => ?_⟩, fun s n p junk rest hmain hrq hjunk => ?_,
    fun s n p hmain habsent => ⟨fun hmore => ?_, fun hlast => ?_⟩,
    fun s => ⟨mainStep_respDelay_eq, mainStep_respDelay_eq, mainStep_respDelay_eq, mainStep_respDelay_eq,
      mainStep_respDelay_eq⟩,
    fun s hmain => ⟨fun hrq => ?_, fun v rest hrq => ?_⟩, fun s mask => mainStep_respDelay_eq⟩
  · rw [exec_sBoot hready, startSend_idle hidle]
  · rw [exec_sBoot hready, startSend_held hbusy]
    rfl
  · rw [mainStep_sendDone hmain, if_pos hidle, sendReturn, if_neg hpolls]
  · rw [mainStep_sendDone hmain, if_pos hidle, sendReturn, if_pos hpolls]
    rfl
  · rw [mainStep_bootPoll hmain, bootPollStep_success n p hrq hjunk]
    rfl
  · rw [mainStep_bootPoll hmain, bootPollStep_absent n p habsent, if_pos hmore]
    rfl
  · rw [mainStep_bootPoll hmain, bootPollStep_absent n p habsent, if_neg (by omega)]
    rfl
  · rw [mainStep_bootStatus hmain]
    simp only [bootStatusStep, hrq, holdCmd, holdSend, clear]
    rw [← hrq]
  · rw [mainStep_bootStatus hmain]
    simp only [bootStatusStep, hrq]
    rfl

/-! ## A device that serves each transfer (R265, R107) -/

/-- `u` is `s` after the byte `b` was sent, the transfer is over and `q` is queued: the transport is at rest with reception
armed, and the configuration, the session and the emulator are as they were. -/
structure Settled (b : Byte) (q : List Byte) (s u : State) : Prop where
  cfg : u.cfg = s.cfg
  ses : u.ses = s.ses
  em : u.em = s.em
  inited : u.tr.inited = true
  link : u.tr.link = .idle
  timer : u.tr.tmode = .off
  armed : u.tr.edgeEn = true
  lines : u.tr.clkDrv = .rel ∧ u.tr.dataDrv = .rel
  txb : u.tr.txb = b
  queue : u.tr.rq = q

theorem Settled.trans {b b' : Byte} {q q' : List Byte} {s u w : State} (h : Settled b q s u) (h' : Settled b' q' u w) :
    Settled b' q' s w :=
  { h' with cfg := h'.cfg.trans h.cfg, ses := h'.ses.trans h.ses, em := h'.em.trans h.em }

section
variable {s : State} (hinit : s.tr.inited = true) (hrq : s.tr.rq = []) (b : Byte)
include hinit hrq

/-- The device clocks and acknowledges a requested transfer, and answers with bytes that the queue holds. -/
theorem runMoves_transfer {reply : List Byte} (hcap : 1 ≤ s.cfg.rqCap) (hlen : reply.length ≤ s.cfg.rqCap)
    (c : SendCaller) :
    ∃ u, Settled b reply s u ∧ u.main = .sendDone c ∧
      runMoves (ackMoves ++ frameMoves reply) (requested b c s) = .next u := by
  obtain ⟨l, hack⟩ := runMoves_ack b c hinit
  rw [runMoves_append hack]
  obtain ⟨v, n, hframes⟩ := runMoves_frameMoves reply
    (s := { s with
      tr := { s.tr with
        txb := b, edgeEn := true, clkDrv := .rel, dataDrv := .rel, bitn := 0, link := .idle, tmode := .off, barks := 0 }
      main := .sendDone c
      trace := l })
    rfl rfl hcap (by simp [hrq])
  refine ⟨_, ?_, ?_, hframes⟩
  · refine ⟨rfl, rfl, rfl, hinit, rfl, rfl, rfl, ⟨rfl, rfl⟩, rfl, ?_⟩
    dsimp only
    rw [hrq, List.nil_append, newest_of_length_le hlen]
  · rfl

/-- A served command returns its first answer to its caller, and leaves the others queued. -/
theorem runMoves_serve (k : CmdCaller) (a : Byte) {rest : List Byte} (hlen : rest.length + 1 ≤ s.cfg.rqCap) :
    ∃ w, Settled b rest s w ∧
      runMoves (serveMoves (a :: rest)) (requested b (.cmd true k) s) = .next (cmdReturn k (responseOf a) w) := by
  obtain ⟨u, hu, hmain, hrun⟩ := runMoves_transfer hinit hrq b (reply := a :: rest) (by omega) hlen (.cmd true k)
  have hdone : mainStep u = .next { u with main := .respDelay k } := by
    rw [mainStep_sendDone hmain, if_pos hu.link]
    rfl
  refine ⟨{ u with main := .respDelay k, tr.rq := rest }, { hu with queue := rfl }, ?_⟩
  rw [serveMoves, runMoves_append hrun, runMoves_main hdone, runMoves_main (mainStep_respDelay rfl),
    respStep_byte (s := { u with main := .respDelay k }) hu.queue k]
  rfl

/-- A served command whose caller goes on with the next command: that one is requested. -/
theorem runMoves_serve_next {k k' : CmdCaller} {code : Config → Byte} (a : Byte) (hcap : 1 ≤ s.cfg.rqCap)
    (hnext : ∀ v w, w.tr.rq = [] → cmdReturn k v w = holdCmd (code w.cfg) k' w) :
    ∃ w, Settled b [] s w ∧
      runMoves (serveMoves [a] ++ [.main]) (requested b (.cmd true k) s) =
        .next (requested (code s.cfg) (.cmd true k') w) := by
  obtain ⟨w, hw, hrun⟩ := runMoves_serve hinit hrq b k a (rest := []) hcap
  refine ⟨w, hw, ?_⟩
  rw [runMoves_append hrun, hnext _ _ hw.queue, runMoves_main (mainStep_sendWait rfl), if_pos (by exact hw.link), hw.cfg]
  rfl

end

/-! ## `S.SETRES` (R178) -/

theorem exec_sSetres {s : State} (hready : readyFor s) (r : Byte) : exec (.sSetres r) s = setResOp r .firmware s :=
  transportOp_ready hready _

theorem setResOp_ok {r : Byte} (hr : r.toNat ≤ 3) (a : After) (s : State) :
    setResOp r a s = .next (startSend s.cfg.cmdDisable (.cmd true (.setRes .disable r a)) s) :=
  if_neg (by omega)

theorem setResOp_bad {r : Byte} (hr : 3 < r.toNat) (a : After) (s : State) : setResOp r a s = .fault .badRes :=
  if_pos hr

/-- Settles O32: four served commands, each requested by the return of the one before. -/
theorem setResolutionSendsItsSequence : Obligations.SetResolutionSendsItsSequence := by
  refine ⟨fun s r hready hr => ?_, fun s r hready hr => ⟨fun hidle => ?_, fun hbusy => ?_⟩,
    fun s r a1 a2 a3 a4 hready hr hidle hrq hcap => ?_⟩
  · rw [exec_sSetres hready, setResOp_bad hr]
  · rw [exec_sSetres hready, setResOp_ok hr, startSend_idle hidle]
  · rw [exec_sSetres hready, setResOp_ok hr, startSend_held hbusy]
    rfl
  · obtain ⟨w1, h1, hrun1⟩ := runMoves_serve_next (k := .setRes .disable r .firmware) (k' := .setRes .setres r .firmware)
      (code := Config.cmdSetres) hready.2 hrq s.cfg.cmdDisable a1 hcap fun _ _ _ => rfl
    obtain ⟨w2, h2, hrun2⟩ := runMoves_serve_next (k := .setRes .setres r .firmware) (k' := .setRes .resByte r .firmware)
      (code := fun _ => r) h1.inited h1.queue s.cfg.cmdSetres a2 (h1.cfg ▸ hcap) fun _ _ _ => rfl
    replace h2 := h1.trans h2
    obtain ⟨w3, h3, hrun3⟩ := runMoves_serve_next (k := .setRes .resByte r .firmware) (k' := .setRes .enable r .firmware)
      (code := Config.cmdEnable) h2.inited h2.queue r a3 (h2.cfg ▸ hcap) fun _ _ _ => rfl
    rw [h2.cfg] at hrun3
    replace h3 := h2.trans h3
    obtain ⟨w4, h4, hrun4⟩ := runMoves_serve h3.inited h3.queue s.cfg.cmdEnable (.setRes .enable r .firmware) a4
      (rest := []) (h3.cfg ▸ hcap)
    replace h4 := h3.trans h4
    refine ⟨_, _, _, _, _, ?_, rfl, rfl, hrun1, rfl, rfl, hrun2, rfl, rfl, hrun3, rfl, rfl, hrun4, rfl, rfl, h4.queue,
      rfl, (congrArg Session.ready h4.ses :), h4.em⟩
    rw [exec_sSetres hready, setResOp_ok hr, startSend_idle hidle]

/-! ## The boot handshake (R175, R280, R284) -/

/-- The state after `T.INIT` and `T.ENRX 1` (R280): the transport is at rest with reception armed. -/
def receiving (s : State) : State := finish .unit (enableReceive (initialised s))

theorem exec_tEnrx_true {s : State} (hready : readyFor s) :
    exec (.tEnrx true) s = .next (finish .unit (enableReceive s)) :=
  transportOp_ready hready _

/-- R280: the firmware's first three calls end in the request to send `CMD_RESET`. -/
theorem runMoves_boot_start {s : State} (hfree : s.main = .idle) :
    runMoves [.act .tInit, .act (.tEnrx true), .act .sBoot] s =
      .next (requested s.cfg.cmdReset (.bootReset 1) (receiving s)) := by
  have hboot : exec .sBoot (receiving s) = .next (requested s.cfg.cmdReset (.bootReset 1) (receiving s)) := by
    rw [exec_sBoot ⟨rfl, rfl⟩, startSend_idle rfl]
    rfl
  rw [runMoves_act (exec_tInit hfree), runMoves_act (exec_tEnrx_true ⟨rfl, rfl⟩), ← receiving, runMoves_act hboot]
  rfl

/-- The device answers the reset with the success code, and the first poll sees it (R175). -/
theorem runMoves_serve_reset {s : State} (hinit : s.tr.inited = true) (hrq : s.tr.rq = []) (b : Byte) (n : Nat)
    (hpolls : 1 ≤ s.cfg.bootPolls) (hcap : 1 ≤ s.cfg.rqCap) :
    ∃ w, Settled b [] s w ∧
      runMoves (serveMoves [s.cfg.rspBatOk] ++ [.main]) (requested b (.bootReset n) s) =
        .next (requested s.cfg.cmdDisable (.cmd true (.boot .disable)) w) := by
  obtain ⟨u, hu, hmain, hrun⟩ := runMoves_transfer hinit hrq b (reply := [s.cfg.rspBatOk]) hcap hcap (.bootReset n)
  have hdone : mainStep u = .next { u with main := .bootPoll n 0 } := by
    rw [mainStep_sendDone hmain, if_pos hu.link, sendReturn, if_neg (by rw [hu.cfg]; omega)]
  have hpoll : mainStep { u with main := .bootPoll n 0 } =
      .next (holdCmd s.cfg.cmdDisable (.boot .disable) { u with main := .bootPoll n 0, tr.rq := [] }) := by
    have hqueue : u.tr.rq = [] ++ u.cfg.rspBatOk :: [] := by rw [hu.queue, hu.cfg]; rfl
    rw [mainStep_bootPoll rfl, bootPollStep_success (s := { u with main := .bootPoll n 0 }) n 0 hqueue (by simp)]
    dsimp only
    rw [hu.cfg]
  refine ⟨{ u with main := .bootPoll n 0, tr.rq := [] }, { hu with queue := rfl }, ?_⟩
  rw [serveMoves, List.append_assoc, runMoves_append hrun, List.cons_append, runMoves_main hdone, List.cons_append,
    runMoves_main hpoll, List.nil_append, runMoves_main (mainStep_sendWait rfl), if_pos (by exact hu.link)]
  rfl

/-- The status request is answered with an acknowledge, the status byte `v` and more; the mask is read from `v`, the
queue flushed, and `CMD_ENABLE` requested (R175, R89). -/
theorem runMoves_serve_status {s : State} (hinit : s.tr.inited = true) (hrq : s.tr.rq = []) (b a v : Byte)
    {more : List Byte} (hlen : more.length + 2 ≤ s.cfg.rqCap) :
    ∃ w, Settled b [] s w ∧
      runMoves (serveMoves (a :: v :: more) ++ [.main, .main]) (requested b (.cmd true (.boot .status)) s) =
        .next (requested s.cfg.cmdEnable (.cmd true (.boot (.enable (buttons v)))) w) := by
  obtain ⟨u, hu, hrun⟩ := runMoves_serve hinit hrq b (.boot .status) a (rest := v :: more) hlen
  have hstatus : mainStep { u with main := .bootStatus } =
      .next (holdCmd s.cfg.cmdEnable (.boot (.enable (buttons v))) (clear { u with main := .bootStatus })) := by
    rw [mainStep_bootStatus rfl]
    simp only [bootStatusStep, hu.queue, hu.cfg]
  refine ⟨clear { u with main := .bootStatus }, { hu with queue := rfl }, ?_⟩
  rw [runMoves_append hrun, cmdReturn, runMoves_main hstatus, runMoves_main (mainStep_sendWait rfl),
    if_pos (by exact hu.link)]
  rfl

/-- R175, R89: the whole handshake, from the request of `CMD_RESET` to the return of the mask. -/
theorem runMoves_handshake {s : State} (hinit : s.tr.inited = true) (hrq : s.tr.rq = []) (v : Byte)
    {more : List Byte} (hpolls : 1 ≤ s.cfg.bootPolls) (hlen : more.length + 2 ≤ s.cfg.rqCap) :
    ∃ w, Settled s.cfg.cmdEnable [] s w ∧
      runMoves (serveMoves [s.cfg.rspBatOk] ++ [.main] ++ serveMoves [s.cfg.rspAck] ++ [.main] ++
          serveMoves [s.cfg.rspAck] ++ [.main] ++ serveMoves [s.cfg.rspAck] ++ [.main] ++
          serveMoves [s.cfg.rspAck] ++ [.main] ++ serveMoves (s.cfg.rspAck :: v :: more) ++ [.main, .main] ++
          serveMoves [s.cfg.rspAck])
        (requested s.cfg.cmdReset (.bootReset 1) s) =
      .next (cmdReturn (.boot (.enable (buttons v))) (responseOf s.cfg.rspAck) w) := by
  have hcap : 1 ≤ s.cfg.rqCap := by omega
  obtain ⟨w1, h1, hreset⟩ := runMoves_serve_reset hinit hrq s.cfg.cmdReset 1 hpolls hcap
  obtain ⟨w2, h2, hdisable⟩ := runMoves_serve_next (k := .boot .disable) (k' := .boot .scale)
    (code := Config.cmdScale21) h1.inited h1.queue s.cfg.cmdDisable s.cfg.rspAck (h1.cfg ▸ hcap) fun v w hw => by
      rw [cmdReturn, clear, ← hw]
  replace h2 := h1.trans h2
  obtain ⟨w3, h3, hscale⟩ := runMoves_serve_next (k := .boot .scale) (k' := .boot .setres)
    (code := Config.cmdSetres) h2.inited h2.queue s.cfg.cmdScale21 s.cfg.rspAck (h2.cfg ▸ hcap) fun _ _ _ => rfl
  replace h3 := h2.trans h3
  obtain ⟨w4, h4, hsetres⟩ := runMoves_serve_next (k := .boot .setres) (k' := .boot .resByte)
    (code := fun cfg => cfg.defaultRes.zeroExtend 8) h3.inited h3.queue s.cfg.cmdSetres s.cfg.rspAck (h3.cfg ▸ hcap)
    fun _ _ _ => rfl
  replace h4 := h3.trans h4
  obtain ⟨w5, h5, hres⟩ := runMoves_serve_next (k := .boot .resByte) (k' := .boot .status) (code := Config.cmdStatus)
    h4.inited h4.queue (s.cfg.defaultRes.zeroExtend 8) s.cfg.rspAck (h4.cfg ▸ hcap) fun _ _ _ => rfl
  replace h5 := h4.trans h5
  obtain ⟨w6, h6, hstatus⟩ := runMoves_serve_status h5.inited h5.queue s.cfg.cmdStatus s.cfg.rspAck v (more := more)
    (h5.cfg ▸ hlen)
  replace h6 := h5.trans h6
  obtain ⟨w7, h7, henable⟩ := runMoves_serve h6.inited h6.queue s.cfg.cmdEnable (.boot (.enable (buttons v)))
    s.cfg.rspAck (rest := []) (h6.cfg ▸ hcap)
  rw [h1.cfg] at hdisable
  rw [h2.cfg] at hscale
  rw [h3.cfg] at hsetres
  rw [h4.cfg] at hres
  rw [h5.cfg] at hstatus
  refine ⟨w7, h6.trans h7, ?_⟩
  have hrun := (runMoves_append hreset _).trans <| (runMoves_append hdisable _).trans <|
    (runMoves_append hscale _).trans <| (runMoves_append hsetres _).trans <| (runMoves_append hres _).trans <|
    (runMoves_append hstatus _).trans henable
  simpa only [List.append_assoc] using hrun

/-- R284: `E.INIT m` from a state at rest after a boot gives `CLEAN_START`. -/
theorem cleanStart_initEmulator {s : State} (m : Mode) (hok : configOk s.cfg = true)
    (hzero : zeroWellFormed s.cfg s.em.zero = true) (hinit : s.tr.inited = true) (hlink : s.tr.link = .idle)
    (htimer : s.tr.tmode = .off) (harmed : s.tr.edgeEn = true) (hlines : s.tr.clkDrv = .rel ∧ s.tr.dataDrv = .rel)
    (hqueue : s.tr.rq = []) (hses : s.ses.frameIdx = 0 ∧ s.ses.ready = true) :
    CleanStart m (finish .unit (initEmulator m s)) := by
  have htarget : inWidth s.cfg (target s.cfg s.em.zero 0) = s.em.zero := by rw [target_zero, inWidth_zero hzero]
  rw [initEmulator_eq, htarget]
  exact ⟨⟨hinit, rfl⟩, ⟨hok, hzero⟩, hlink, htimer, harmed, hlines, hqueue, hses, rfl, ⟨rfl, rfl⟩, ⟨rfl, rfl⟩,
    ⟨rfl, rfl, rfl, rfl, rfl, rfl, rfl, rfl, rfl, rfl⟩, ⟨rfl, rfl, rfl⟩, rfl⟩

theorem receiving_powerOn_cfg (cfg : Config) : (receiving (State.powerOn cfg)).cfg = cfg := rfl

/-- Settles O34: the three calls, the handshake, and `E.INIT` of the emulator that nothing in between has written. -/
theorem bootHandshakeReturnsTheMask : Obligations.BootHandshakeReturnsTheMask := by
  intro cfg m v more hok hpolls hlen
  obtain ⟨w, hw, hrun⟩ := runMoves_handshake (s := receiving (State.powerOn cfg)) rfl rfl v hpolls hlen
  have hcfg : w.cfg = cfg := hw.cfg
  have hzero : w.em.zero = cfg.zeroDefault := congrArg Emulator.zero hw.em
  replace hrun := (runMoves_append (runMoves_boot_start (s := State.powerOn cfg) rfl) _).trans hrun
  simp only [List.append_assoc, receiving_powerOn_cfg] at hrun ⊢
  refine ⟨_, _, hrun, rfl, rfl, hw.queue, rfl, rfl, hw.txb, exec_eInit rfl m,
    cleanStart_initEmulator m ?_ ?_ hw.inited hw.link hw.timer hw.armed hw.lines hw.queue ⟨rfl, rfl⟩⟩
  · exact hcfg ▸ hok
  · change zeroWellFormed w.cfg w.em.zero = true
    rw [hcfg, hzero]
    exact (configOk_bounds hok).1

end Sys2Proof.Machine

/-! # Zero points, the startup collaborator and Analog mode (spec/42_output.md, spec/70_reset_and_hazards.md R281) -/

namespace Sys2Proof.Machine

/-! ## `E.ZERO` (R211, R8) -/

section
variable {s : State} {z : Nat} (a : After)

theorem zeroOp_illFormed (hz : zeroWellFormed s.cfg z = false) : zeroOp z a s = .fault .config := by
  simp [zeroOp, hz]

variable (hz : zeroWellFormed s.cfg z = true)
include hz

theorem zeroOp_beforeInit (hinit : s.em.inited = false) : zeroOp z a s = .next (goOn a { s with em.zero := z }) := by
  simp [zeroOp, hz, hinit]

/-- R211, R69: after `E.INIT` both targets are latched, in one step or up to the second write. -/
theorem zeroOp_inited (hinit : s.em.inited = true) :
    zeroOp z a s =
      if s.preempt then .next { latchX { s with em.zero := z } with preempt := false, main := .zeroB a }
      else .next (goOn a (latchY (latchX { s with em.zero := z }))) := by
  simp [zeroOp, hz, hinit]

variable (hinit : s.em.inited = true) (hx : s.em.cntX.toNat < s.cfg.cntMod)
include hinit hx

/-- R211, R69: where other agents will step in between, `E.ZERO` stops after the X target. -/
theorem zeroOp_parted (hmark : s.preempt = true) :
    zeroOp z a s =
      .next { s with
        em := { s.em with zero := z, tgtX := target s.cfg z s.em.cntX.toNat }, main := .zeroB a, preempt := false } := by
  rw [zeroOp_inited a hz hinit, if_pos hmark]
  simp [latchX, inWidth_target hz hx]

/-- R211: both targets are latched for the new zero point. -/
theorem zeroOp_whole (hmark : s.preempt = false) (hy : s.em.cntY.toNat < s.cfg.cntMod) :
    zeroOp z a s =
      .next (goOn a { s with
        em := { s.em with
          zero := z, tgtX := target s.cfg z s.em.cntX.toNat, tgtY := target s.cfg z s.em.cntY.toNat } }) := by
  rw [zeroOp_inited a hz hinit, if_neg (ne_true_of_eq_false hmark)]
  simp [latchX, latchY, inWidth_target hz hx, inWidth_target hz hy]

end

theorem exec_eZero {s : State} (hfree : s.main = .idle) (z : BitVec 16) :
    exec (.eZero z) s = zeroOp z.toNat .firmware s := by
  change execEZero z s = _
  exact onMain_free hfree _

/-- The second target write, of a counter in range (R215). -/
theorem latchY_eq {s : State} (hz : zeroWellFormed s.cfg s.em.zero = true) (hy : s.em.cntY.toNat < s.cfg.cntMod) :
    latchY s = { s with em.tgtY := target s.cfg s.em.zero s.em.cntY.toNat } := by
  rw [latchY, inWidth_target hz hy]

theorem mainStep_zeroB {s : State} {a : After} (hmain : s.main = .zeroB a) :
    mainStep s = .next (goOn a (latchY s)) := by
  simp only [mainStep, hmain]

/-- Settles O38: the cases of `zeroOp`, with the firmware as its caller. -/
theorem eZeroResult : Obligations.EZeroResult := by
  refine ⟨fun cfg z => decode_eZero_word, fun cfg z hden => ?_,
    fun s z hfree => ⟨fun hz => ?_, fun hz hinit => ?_, fun hz hinit hmark hx hy => ?_, fun hz hinit hmark hx => ?_⟩,
    fun s hmain hz hy => ?_⟩
  · simp only [zeroWellFormed, Bool.and_eq_true, decide_eq_true_iff]
    exact ⟨fun ⟨⟨⟨_, hpos⟩, hwidth⟩, hperiod⟩ => ⟨hpos, hwidth, hperiod⟩,
      fun ⟨hpos, hwidth, hperiod⟩ => ⟨⟨⟨hden, hpos⟩, hwidth⟩, hperiod⟩⟩
  · rw [exec_eZero hfree, zeroOp_illFormed _ hz]
  · rw [exec_eZero hfree, zeroOp_beforeInit _ hz hinit]
    rfl
  · rw [exec_eZero hfree, zeroOp_whole _ hz hinit hx hmark hy]
    rfl
  · rw [exec_eZero hfree, zeroOp_parted _ hz hinit hx hmark]
    rfl
  · rw [mainStep_zeroB hmain, latchY_eq hz hy]
    rfl

/-! ## The startup collaborator (R281) -/

theorem mainStep_startup {s : State} {a : After} (hmain : s.main = .startup a) : mainStep s = startupStep a s := by
  simp only [mainStep, hmain]

/-- What is left to call after `S.SETRES` (R281). -/
def restOf (c : StartChoice) : After :=
  match c.zero with
  | some z => .startZero z c.mode
  | none => .startInit c.mode

/-- R281: the collaborator looks the mask up and makes its first call. -/
theorem startupOp_eq {s : State} {mk : BitVec 3} {c : StartChoice} (hready : readyFor s) (hret : s.ret = .mask mk)
    (hc : s.cfg.startup[mk.toFin] = c) :
    startupOp s =
      match c.res with
      | some r => setResOp r (restOf c) s
      | none => .next (goOn (restOf c) s) := by
  subst hc
  rw [startupOp, onMain_free hready.1]
  simp only [hret, afterTInit, hready.2]
  rfl

/-- Settles O36: the first call by `startupOp_eq`, the later ones by MAIN's position. -/
theorem startupMakesItsCallsInOrder : Obligations.StartupMakesItsCallsInOrder := by
  refine ⟨fun s mk c hready hret hc hres => ⟨fun hzero => ?_, fun z hzero => ?_⟩,
    fun s mk c r hready hret hc hres => ⟨fun hr => ?_, fun a ha hr => ⟨fun hidle => ?_, fun hbusy => ?_⟩⟩,
    fun s r a => ⟨fun p hp hmain => ?_, fun hmain ha => ?_, fun hmain => mainStep_respDelay_eq hmain⟩,
    fun s z m hmain => ⟨fun hz => ?_, fun hz hinit => ?_, fun hz hinit hmark hx hy => ?_, fun hz hinit hmark hx => ?_⟩,
    fun s m hmain hz hy => ?_, fun s m t hmain h => ?_⟩
  · rw [startupOp_eq hready hret hc, hres, restOf, hzero]
    rfl
  · rw [startupOp_eq hready hret hc, hres, restOf, hzero]
    rfl
  · rw [startupOp_eq hready hret hc, hres]
    exact setResOp_bad hr _ s
  · replace ha : a = restOf c := ha
    rw [startupOp_eq hready hret hc, hres, ha]
    exact (setResOp_ok hr _ s).trans (by rw [startSend_idle hidle])
  · replace ha : a = restOf c := ha
    rw [startupOp_eq hready hret hc, hres, ha]
    exact (setResOp_ok hr _ s).trans (by rw [startSend_held hbusy]; rfl)
  · simp only [List.mem_cons, List.not_mem_nil, or_false] at hp
    obtain rfl | rfl | rfl := hp <;> exact mainStep_respDelay_eq hmain
  · rw [mainStep_respDelay_eq hmain]
    cases a with
    | firmware => exact absurd rfl ha
    | startZero z m => rfl
    | startInit m => rfl
  · rw [mainStep_startup hmain, startupStep, zeroOp_illFormed _ hz]
  · rw [mainStep_startup hmain, startupStep, zeroOp_beforeInit _ hz hinit]
    rfl
  · rw [mainStep_startup hmain, startupStep, zeroOp_whole _ hz hinit hx hmark hy]
    rfl
  · rw [mainStep_startup hmain, startupStep, zeroOp_parted _ hz hinit hx hmark]
    rfl
  · rw [mainStep_zeroB hmain, latchY_eq hz hy]
    rfl
  · rw [exec_eInit rfl, initEmulator_eq] at h
    rw [mainStep_startup hmain, startupStep, initEmulator_eq, ← h]
    rfl

/-! ## `E.MOVE` in Analog mode (R220, R221) -/

section
variable {s : State} (hinit : s.em.inited = true) (hmode : s.em.mode = .analog) (hok : configOk s.cfg = true)
  (hz : zeroWellFormed s.cfg s.em.zero = true) (dx dy : Int) (btn : BitVec 3)
include hinit hmode hok hz

/-- R221, R69: where other agents will step in between, the move stops after the X target. -/
theorem moveOp_analog_parted (hmark : s.preempt = true) :
    moveOp dx dy btn s =
      .next { s with
        em := { s.em with
          cntX := upd s.cfg s.em.cntX dx, cntY := upd s.cfg s.em.cntY (signedDy s.cfg dy),
          tgtX := target s.cfg s.em.zero (upd s.cfg s.em.cntX dx).toNat }
        main := .moveB btn
        preempt := false } := by
  rw [moveOp_analog hinit hmode, if_pos hmark]
  simp [latchX, moveCounters, inWidth_target hz (upd_lt hok ..)]

/-- The step from the second target write on (R221), for a counter in range. -/
theorem moveOp_analog_whole (hmark : s.preempt = false) :
    moveOp dx dy btn s =
      .next (finish .unit (emitButtons btn { s with
        em := { s.em with
          cntX := upd s.cfg s.em.cntX dx, cntY := upd s.cfg s.em.cntY (signedDy s.cfg dy),
          tgtX := target s.cfg s.em.zero (upd s.cfg s.em.cntX dx).toNat,
          tgtY := target s.cfg s.em.zero (upd s.cfg s.em.cntY (signedDy s.cfg dy)).toNat } })) := by
  rw [moveOp_analog hinit hmode, if_neg (ne_true_of_eq_false hmark)]
  simp [analogMoveB, latchX, latchY, moveCounters, inWidth_target hz (upd_lt hok ..)]

end

theorem mainStep_moveB {s : State} {btn : BitVec 3} (hmain : s.main = .moveB btn) :
    mainStep s = .next (finish .unit (analogMoveB btn s)) := by
  simp only [mainStep, hmain]

/-- Settles O39: the counters are those of `upd`, which stays below `CNT_MOD`, so both targets are exact. -/
theorem analogMoveLatchesTargets : Obligations.AnalogMoveLatchesTargets := by
  refine ⟨fun s dx dy btn hfree hinit hmode hok hz => ?_, fun s btn hmain hz hy => ?_⟩
  · refine ⟨_, _, upd_toNat hok .., upd_toNat hok .., fun hmark => ?_, fun hmark => ?_⟩
    · rw [exec_eMove hfree, moveOp_analog_whole hinit hmode hok hz _ _ _ hmark]
      rfl
    · rw [exec_eMove hfree, moveOp_analog_parted hinit hmode hok hz _ _ _ hmark]
      rfl
  · rw [mainStep_moveB hmain, analogMoveB, latchY_eq hz hy]
    rfl

/-- R69: an operation parted at its target writes, an `EV.SYNC` there, and MAIN's next step. -/
theorem runMoves_sync_between {i : Instr} {s u t : State} (hop : exec i s = .next u)
    (hmain : mainStep (syncEdge u) = .next t) : runMoves [.act i, .act .evSync, .main] s = .next t := by
  rw [runMoves_act hop, runMoves_act (exec_evSync u), runMoves_main hmain, runMoves]

/-- Settles O41: the edge copies the targets as they stand between the two writes. -/
theorem syncBetweenTargetWrites : Obligations.SyncBetweenTargetWrites := by
  refine ⟨fun s dx dy btn hfree hinit hmode hsync hmark hok hz => ?_,
    fun s z hfree hinit hsync hmark hz hx hy => ?_⟩
  · have hmove := (exec_eMove hfree dx dy btn).trans (moveOp_analog_parted hinit hmode hok hz _ _ btn hmark)
    have hy := upd_lt hok s.em.cntY (signedDy s.cfg dy.toInt)
    refine ⟨_, runMoves_sync_between hmove (mainStep_moveB (syncEdge_main _)), ?_⟩
    simp [analogMoveB_em, syncEdge_enabled, hsync, inWidth_target hz hy, upd_toNat hok, switchOf]
  · have hzero := (exec_eZero hfree z).trans (zeroOp_parted .firmware hz hinit hx hmark)
    refine ⟨_, runMoves_sync_between hzero (mainStep_zeroB (syncEdge_main _)), ?_⟩
    simp [goOn, syncEdge_enabled, hsync, inWidth_target hz hy]

/-! ## Pulse widths (R233) and the counter's period (R216) -/

/-- The window after an `EV.SYNC` and `n` ticks: both lines follow the counter (R233). -/
structure InWindow (x y n : Nat) (s : State) : Prop where
  running : s.em.tcntRun = true
  mode : s.em.mode = .analog
  cmp : s.em.cmpX = x ∧ s.em.cmpY = y
  tcnt : s.em.tcnt = n
  potX : s.em.potX = if n < x then .low else .high
  potY : s.em.potY = if n < y then .low else .high

/-- A line that is low before its compare value rises on the tick that reaches it, and stays. -/
theorem potLevel_tick (n x : Nat) :
    (if n + 1 = x then PotLevel.high else if n < x then .low else .high) = if n + 1 < x then .low else .high := by
  grind

theorem InWindow.counterTick {x y n : Nat} {s : State} (hs : InWindow x y n s) (hn : n + 1 < 2 ^ s.cfg.tcntBits) :
    InWindow x y (n + 1) (counterTick s) := by
  obtain ⟨hrun, hmode, ⟨hx, hy⟩, htcnt, hpotX, hpotY⟩ := hs
  have hnext : inWidth s.cfg (n + 1) = n + 1 := Nat.mod_eq_of_lt hn
  have hem := counterTick_running_em hrun hmode
  rw [htcnt, hnext, hx, hy, hpotX, hpotY, potLevel_tick, potLevel_tick] at hem
  constructor <;> simp [hem, hrun, hmode, hx, hy]

theorem InWindow.ticks {x y k : Nat} {s : State} (hs : InWindow x y k s) (n : Nat)
    (hn : k + n < 2 ^ s.cfg.tcntBits) :
    ∃ t, runMoves (List.replicate n (.act .evTck)) s = .next t ∧ InWindow x y (k + n) t := by
  induction n generalizing k s with
  | zero => exact ⟨s, rfl, hs⟩
  | succ n ih =>
    obtain ⟨t, hrun, ht⟩ := ih (hs.counterTick (by omega)) (by rw [counterTick_cfg]; omega)
    exact ⟨t, (runMoves_act (exec_evTck s) _).trans hrun, by rwa [Nat.add_right_comm, Nat.add_assoc] at ht⟩

/-- Settles O45: the edge opens the window at 0, where both lines are low, and each tick keeps it. -/
theorem pulseWidthIsTheTarget : Obligations.PulseWidthIsTheTarget := by
  intro s n hsync hmode hx hy hn
  have hstart : InWindow s.em.tgtX s.em.tgtY 0 (syncEdge s) := by
    rw [syncEdge_enabled hsync]
    exact ⟨rfl, hmode, ⟨rfl, rfl⟩, rfl, (if_pos hx).symm, (if_pos hy).symm⟩
  obtain ⟨t, hrun, ht⟩ := hstart.ticks n (by rw [syncEdge_cfg]; omega)
  rw [Nat.zero_add] at ht
  exact ⟨t, (runMoves_act (exec_evSync s) _).trans hrun, ht.tcnt, ht.potX, ht.potY⟩

/-- `t` is `s` after `k` moves of +1: the X counter has advanced by `k`, and both targets are those of the counters. -/
structure MovedRight (s : State) (k : Nat) (t : State) : Prop where
  cfg : t.cfg = s.cfg
  free : t.main = .idle
  inited : t.em.inited = true
  mode : t.em.mode = .analog
  mark : t.preempt = false
  zero : t.em.zero = s.em.zero
  cntX : t.em.cntX.toNat = (s.em.cntX.toNat + k) % s.cfg.cntMod
  cntY : t.em.cntY = s.em.cntY
  tgtX : t.em.tgtX = target s.cfg s.em.zero t.em.cntX.toNat
  tgtY : t.em.tgtY = target s.cfg s.em.zero t.em.cntY.toNat

/-- A counter in range stays where it is under a delta of 0, whatever `Y_SIGN` (R216). -/
theorem upd_signedDy_zero {cfg : Config} (hok : configOk cfg = true) {c : BitVec 6} (hc : c.toNat < cfg.cntMod) :
    upd cfg c (signedDy cfg 0) = c := by
  have hzero : signedDy cfg 0 = 0 := by cases h : cfg.ySign <;> simp [signedDy, h]
  have hval := upd_toNat hok c (signedDy cfg 0)
  rw [hzero, Int.add_zero, Int.emod_eq_of_lt (by omega) (by omega)] at hval
  exact BitVec.eq_of_toNat_eq (by rw [hzero]; omega)

theorem MovedRight.next {s t : State} {k : Nat} (ht : MovedRight s k t) (hok : configOk s.cfg = true)
    (hz : zeroWellFormed s.cfg s.em.zero = true) (hy : s.em.cntY.toNat < s.cfg.cntMod) :
    ∃ u, exec (.eMove 1 0 0) t = .next u ∧ MovedRight s (k + 1) u := by
  have hmove := (exec_eMove ht.free 1 0 0).trans (moveOp_analog_whole ht.inited ht.mode (by rwa [ht.cfg])
    (by rwa [ht.cfg, ht.zero]) _ _ 0 ht.mark)
  have hx : (upd s.cfg t.em.cntX 1).toNat = (s.em.cntX.toNat + (k + 1)) % s.cfg.cntMod := by
    have hval := upd_toNat hok t.em.cntX 1
    rw [ht.cntX] at hval
    push_cast at hval
    rw [Int.emod_add_emod, Int.add_assoc] at hval
    exact_mod_cast hval
  have hY := upd_signedDy_zero hok hy
  have hone : (1#9).toInt = 1 := rfl
  refine ⟨_, hmove, ?_⟩
  constructor <;> simp [ht.cfg, ht.inited, ht.mode, ht.mark, ht.zero, ht.cntY, hone, hx, hY]

theorem MovedRight.run {s t : State} {k : Nat} (ht : MovedRight s k t) (hok : configOk s.cfg = true)
    (hz : zeroWellFormed s.cfg s.em.zero = true) (hy : s.em.cntY.toNat < s.cfg.cntMod) (n : Nat) :
    ∃ u, runMoves (List.replicate n (.act (.eMove 1 0 0))) t = .next u ∧ MovedRight s (k + n) u := by
  induction n generalizing k t with
  | zero => exact ⟨t, rfl, ht⟩
  | succ n ih =>
    obtain ⟨v, hmove, hv⟩ := ht.next hok hz hy
    obtain ⟨u, hrun, hu⟩ := ih hv
    exact ⟨u, (runMoves_act hmove _).trans hrun, by rwa [Nat.add_right_comm, Nat.add_assoc] at hu⟩

/-- Settles O46: after `CNT_MOD` moves the X counter is its old value modulo `CNT_MOD`, and the targets follow. -/
theorem counterWrapsAround : Obligations.CounterWrapsAround := by
  intro s hok hs hfree hinit hmode hmark
  obtain ⟨hx, hy⟩ := hs.counters
  have htgtY := hs.targetY hinit (by rw [hfree]; rfl)
  have hstart : MovedRight s 0 s :=
    ⟨rfl, hfree, hinit, hmode, hmark, rfl, (Nat.mod_eq_of_lt hx).symm, rfl, hs.targetX hinit, htgtY⟩
  obtain ⟨t, hrun, ht⟩ := hstart.run hok hs.zeroPoint hy s.cfg.cntMod
  have hcntX : t.em.cntX = s.em.cntX := by
    refine BitVec.eq_of_toNat_eq ?_
    rw [ht.cntX, Nat.zero_add, Nat.add_mod_right, Nat.mod_eq_of_lt hx]
  refine ⟨t, hrun, hcntX, ?_, ht.cntY, ?_⟩
  · rw [ht.tgtX, hcntX, hs.targetX hinit]
  · rw [ht.tgtY, ht.cntY, htgtY]

/-! ## Independence of the transport and the session (C8, R20)

What the emulator's operations leave in the emulator is written in terms of the configuration, the emulator, MAIN's
position and the mark alone. -/

/-- The two states agree on what the emulator's operations read. -/
structure SameEmulator (s u : State) : Prop where
  cfg : s.cfg = u.cfg
  em : s.em = u.em
  main : s.main = u.main
  mark : s.preempt = u.preempt

/-- The second answer is a next state that agrees with `t` on the emulator and on MAIN's position. -/
def FollowedBy (t : State) (r : Result) : Prop := ∃ v, r = .next v ∧ v.em = t.em ∧ v.main = t.main

namespace SameEmulator

variable {s u t : State} (hsu : SameEmulator s u)
include hsu

theorem initEmulator_em (m : Mode) : (initEmulator m u).em = (initEmulator m s).em := by
  simp only [initEmulator_eq, hsu.cfg, hsu.em]

theorem zeroOp {z : Nat} (h : zeroOp z .firmware s = .next t) : FollowedBy t (zeroOp z .firmware u) := by
  have hz := (zeroOp_cases h).1
  have hz' : zeroWellFormed u.cfg z = true := hsu.cfg ▸ hz
  cases hinit : s.em.inited with
  | false =>
    rw [zeroOp_beforeInit _ hz hinit] at h
    cases h
    exact ⟨_, zeroOp_beforeInit _ hz' (hsu.em ▸ hinit), by simp [hsu.em], rfl⟩
  | true =>
    have hbody := zeroOp_inited .firmware hz' (hsu.em ▸ hinit)
    rw [zeroOp_inited _ hz hinit] at h
    split at h
    case isTrue hmark =>
      cases h
      exact ⟨_, hbody.trans (if_pos (hsu.mark ▸ hmark)), by simp [hsu.cfg, hsu.em], rfl⟩
    case isFalse hmark =>
      cases h
      exact ⟨_, hbody.trans (if_neg (hsu.mark ▸ hmark)), by simp [hsu.cfg, hsu.em], rfl⟩

theorem moveOp {dx dy : Int} {btn : BitVec 3} (h : moveOp dx dy btn s = .next t) :
    FollowedBy t (moveOp dx dy btn u) := by
  have hinit := (moveOp_cases h).1
  have hinit' : u.em.inited = true := hsu.em ▸ hinit
  cases hmode : s.em.mode with
  | analog =>
    have hbody := moveOp_analog hinit' (hsu.em ▸ hmode) dx dy btn
    rw [moveOp_analog hinit hmode] at h
    split at h
    case isTrue hmark =>
      cases h
      exact ⟨_, hbody.trans (if_pos (hsu.mark ▸ hmark)), by simp [hsu.cfg, hsu.em], rfl⟩
    case isFalse hmark =>
      cases h
      exact ⟨_, hbody.trans (if_neg (hsu.mark ▸ hmark)), by simp [analogMoveB_em, hsu.cfg, hsu.em], rfl⟩
  | joystick =>
    rw [moveOp_joystick hinit hmode] at h
    cases h
    have hcounted : (moveCounters dx dy u).em = (moveCounters dx dy s).em := by simp [hsu.cfg, hsu.em]
    have hcfg : (moveCounters dx dy u).cfg = (moveCounters dx dy s).cfg := by simp [hsu.cfg]
    refine ⟨_, moveOp_joystick hinit' (hsu.em ▸ hmode) .., ?_, rfl⟩
    rw [finish_em, finish_em, joystickMove_em, joystickMove_em, hcfg, hcounted]

theorem syncEdge_em : (syncEdge u).em = (syncEdge s).em := by
  simp [syncEdge, hsu.em, apply_ite State.em]

theorem counterTick_em : (counterTick u).em = (counterTick s).em := by
  simp [counterTick, compareChannel, hsu.cfg, hsu.em, apply_ite State.em]

theorem pulseEnd_em : (pulseEnd u).em = (pulseEnd s).em := by
  simp [pulseEnd, hsu.em, apply_ite State.em]

end SameEmulator

/-- Settles O50: each operation and event leaves the transport and the session alone, and writes the emulator from what
the two states agree on. -/
theorem emulatorIndependentOfTransport : Obligations.EmulatorIndependentOfTransport := by
  intro s u t m z dx dy btn hcfg hem hmain hmark i hi h
  have hsu : SameEmulator s u := ⟨hcfg, hem, hmain, hmark⟩
  simp only [List.mem_cons, List.not_mem_nil, or_false] at hi
  obtain rfl | rfl | rfl | rfl | rfl | rfl := hi
  · have hfree := exec_next_free h rfl
    rw [exec_eInit hfree] at h
    cases h
    exact ⟨by simp, by simp, _, exec_eInit (hmain ▸ hfree) m, hsu.initEmulator_em m, rfl, by simp, by simp⟩
  · obtain ⟨hfree, hbody⟩ := onMain_next h
    obtain ⟨v, hv, hvem, hvmain⟩ := hsu.zeroOp hbody
    obtain ⟨-, htr, hses, -⟩ := zeroOp_next hbody
    obtain ⟨-, hvtr, hvses, -⟩ := zeroOp_next hv
    exact ⟨htr, hses, v, (exec_eZero (hmain ▸ hfree) z).trans hv, hvem, hvmain, hvtr, hvses⟩
  · obtain ⟨hfree, hbody⟩ := onMain_next h
    obtain ⟨v, hv, hvem, hvmain⟩ := hsu.moveOp hbody
    obtain ⟨-, htr, hses, -⟩ := moveOp_next hbody
    obtain ⟨-, hvtr, hvses, -⟩ := moveOp_next hv
    exact ⟨htr, hses, v, (exec_eMove (hmain ▸ hfree) dx dy btn).trans hv, hvem, hvmain, hvtr, hvses⟩
  · cases h
    exact ⟨by simp, by simp, _, exec_evSync u, hsu.syncEdge_em, by simp [hmain], by simp, by simp⟩
  · cases h
    exact ⟨by simp, by simp, _, exec_evTck u, hsu.counterTick_em, by simp [hmain], by simp, by simp⟩
  · cases h
    exact ⟨by simp, by simp, _, exec_evPulse u, hsu.pulseEnd_em, by simp [hmain], by simp, by simp⟩

/-! # Power-on and initialisation (spec/10_state.md R51, spec/70_reset_and_hazards.md R280) -/

/-- Settles O1: every field is read off the state at power-on. -/
theorem powerOnState : Obligations.PowerOnState :=
  ⟨fun _ => ⟨rfl, rfl, rfl, rfl, rfl, rfl, rfl, ⟨rfl, rfl, rfl, rfl, rfl, rfl, rfl, rfl, rfl, rfl⟩, rfl, rfl, rfl, rfl⟩,
    rfl⟩

/-- Settles O2: `T.INIT`, then `E.INIT m` of the checked zero point. -/
theorem initialisationSequence : Obligations.InitialisationSequence := by
  intro cfg m hok
  have hzero := inWidth_zero (configOk_bounds hok).1
  have hinit := (runMoves_act (exec_tInit (s := State.powerOn cfg) rfl) _).trans
    (runMoves_act (exec_eInit (s := initialised (State.powerOn cfg)) rfl m) [])
  refine ⟨_, hinit, ?_⟩
  simp [initEmulator_eq, clearedEmulator, initialised, State.powerOn, allReleased, hzero]

/-- Settles O3: each event asks for an enable, a run flag or `T.INIT` first. -/
theorem eventsBeforeInitialisation : Obligations.EventsBeforeInitialisation := by
  intro s d hinit hedge htimer hsync hcount hpulse i hi
  simp only [List.mem_cons, List.not_mem_nil, or_false] at hi
  obtain rfl | rfl | rfl | rfl | rfl | rfl := hi
  · rw [exec_evFall, takeFall_disarmed hedge]
  · rw [exec_evTtmr, timerTick_off htimer]
  · rw [exec_evBidle, busIdle, if_neg (by simp [hinit])]
  · rw [exec_evSync, syncEdge_disabled hsync]
  · rw [exec_evTck, counterTick_stopped hcount]
  · rw [exec_evPulse, pulseEnd_stopped hpulse]

theorem transportOp_uninit {s : State} (hfree : s.main = .idle) (hinit : s.tr.inited = false) (k : State → Result) :
    transportOp s k = .fault .uninit := by
  rw [transportOp, onMain_free hfree, afterTInit, if_neg (ne_true_of_eq_false hinit)]

/-- Settles O4: the guard of the transport and the session comes first, then each operation's own check. -/
theorem uninitialisedOperationsFault : Obligations.UninitialisedOperationsFault := by
  refine ⟨fun s e x b hfree hinit i hi => ?_, fun s hfree hinit hboot => exec_sPoll_unready ⟨hfree, hinit⟩ hboot,
    fun s dx dy btn hfree hinit => ?_⟩
  · simp only [List.mem_cons, List.not_mem_nil, or_false] at hi
    obtain rfl | rfl | rfl | rfl | rfl | rfl | rfl | rfl | rfl := hi <;> exact transportOp_uninit hfree hinit _
  · rw [exec_eMove hfree, moveOp, if_neg (ne_true_of_eq_false hinit)]

end Sys2Proof.Machine
